-- ==== Sys2Proof/Word.lean ====
section
/-! DEFINITION. The word and byte types: a register is 32 bits (10_state.md R32), a data-memory cell 8 bits
(20_memory.md R100). -/

namespace Sys2Proof

/-- A register, a command word, an address held in a register. -/
abbrev Word := BitVec 32

/-- One byte of the data memory. -/
abbrev Byte := BitVec 8

end Sys2Proof
end

