-- ==== Sys2Proof/Config.lean ====
section
/-! DEFINITION. What one HUFFCORE fixes (its two parameters, 00_scope.md R5 and R8) and the values the spec leaves
free. The constants derived from the parameters are in Machine/Params.lean. -/

namespace Sys2Proof

/-- SYM_W, the width of a symbol: 8 or 16 bits, nothing else (00_scope.md R5). -/
inductive SymW where
  | w8
  | w16
deriving DecidableEq, Repr

/-- The parameters of one HUFFCORE. MEM_SIZE is held as MEM_SIZE - 1, so that every value of the field is a legal
size, 1 to 2^32 bytes (00_scope.md R8), and MEMSZ reads the field itself (10_state.md R35). -/
structure Config where
  symW : SymW
  memTop : Word
deriving DecidableEq, Repr

/-- The reference configuration of every example: SYM_W = 8, MEM_SIZE = 65536 (00_scope.md R5, R8). -/
def Config.reference : Config := { symW := .w8, memTop := 0xFFFF#32 }

/-- FREE VALUE: what the n-th read of a register that the rules leave unspecified returns (70_reset_and_hazards.md
R402, R410; 93_implementation_defined.md I3). -/
opaque Config.freeRead : Nat → Word

/-- FREE VALUE: whether, at the n-th reset that abandons a command, the byte at an address of that command's write
footprint already holds what the command would have written (70_reset_and_hazards.md R403; I6). -/
opaque Config.abandonedByteWritten : Nat → Nat → Bool

end Sys2Proof
end

