-- ==== Sys2Proof/Syntax.lean ====
section
/-! DEFINITION. The commands: one constructor per row of spec/opcode_table.json (30_encoding.md R132). -/

namespace Sys2Proof

/-- A command. B, one bit, is the only operand a command word carries, and only WBIT reads it (30_encoding.md R133). -/
inductive Instr where
  | nop
  | analyze
  | buildtree
  | buildtable
  | compress
  | decompress
  | clear
  | wopen
  | wbit (b : Bool)
  | wclose
  | ropen
  | rbit
  | rclose
deriving DecidableEq, Repr

end Sys2Proof
end

