-- ==== Sys2Proof/HostSyntax.lean ====
section
/-! DEFINITION. What HOST can do: the registers it can name (10_state.md R32), the statements it runs, and the
source form of a host program (30_encoding.md R138, R139). -/

namespace Sys2Proof

/-- The registers of the block, by name (10_state.md R32). -/
inductive Reg where
  | id | config | memsz | ctrl | cmd | status | errAddr | errInfo
  | inAddr | inLen | outAddr | outBitsLo | outBitsHi | outBytesLo | outBytesHi
  | srcAddr | srcBitsLo | srcBitsHi | dstAddr | dstLenLo | dstLenHi
  | nsyms | nnodes | root | wstate | rstate | rposLo | rposHi
  | hsel | hdata | csel | cwsel | clen | cword
  | nsel | ninfo | nleft | nright | nwgtLo | nwgtHi
deriving DecidableEq, Repr

/-- One thing HOST (or, for `reset`, the platform) does next. Register accesses carry the raw offset and the width
in bytes, since an access of any width at any offset has a meaning (10_state.md R33). -/
inductive HostStmt where
  /-- A bus write of `bytes` bytes at `off`. -/
  | wr (off bytes : Nat) (v : Word)
  /-- A bus read of `bytes` bytes at `off` (R138 `rd REG`). -/
  | rd (off bytes : Nat)
  /-- An aligned 32-bit read that is checked to return `v` (R138 `rd REG, =v`). -/
  | rdCheck (off : Nat) (v : Word)
  /-- Read, and go on at statement `target` if the value AND `mask` is not 0 (R138 `jnz`). -/
  | jnz (off : Nat) (mask : Word) (target : Nat)
  /-- HOST writes a byte of the data memory (20_memory.md R100). -/
  | memWr (addr : Nat) (v : Byte)
  /-- HOST reads a byte of the data memory (20_memory.md R100). -/
  | memRd (addr : Nat)
  /-- HOST waits for irq and takes the interrupt (20_memory.md R113, 60_exceptions.md R360). -/
  | takeIrq
  /-- The platform asserts reset (70_reset_and_hazards.md R400). -/
  | reset
deriving DecidableEq, Repr

/-- A statement or pseudo-statement of a host program as it is written (30_encoding.md R138, R139). -/
inductive SrcStmt where
  | mem (a : Nat) (bytes : List Byte)
  | wr (r : Reg) (v : Word)
  | rd (r : Reg)
  | rdCheck (r : Reg) (v : Word)
  | jnz (r : Reg) (mask : Word) (label : String)
  | cmd (i : Instr)
  | wait
  | run (i : Instr)
  | wr64SrcBits (v : BitVec 64)
  | whist (s v : Word)
  | rdcode (s w : Word)
  | rdnode (i : Word)
deriving DecidableEq, Repr

/-- A line: one statement with an optional label before it (30_encoding.md R138). -/
structure SrcLine where
  label : Option String
  stmt : SrcStmt
deriving DecidableEq, Repr

end Sys2Proof
end

