-- ==== Sys2Proof/Machine/State.lean ====
section
/-! DEFINITION. The state: everything 10_state.md R30 gives HUFFCORE, the data memory HOST owns (20_memory.md R100),
and HOST as the other agent (00_scope.md R2). Plain data. -/

namespace Sys2Proof.Machine

/-- Sparse contents of a memory: (index, value) pairs, indices rising, no entry equal to what an unlisted index
reads as (`Sparse.wf` in Machine/Ops.lean). -/
abbrev Sparse (α : Type) := List (Nat × α)

/-- The data memory (20_memory.md R100). -/
abbrev Memory := List Host.Cell

/-- TREE_KIND (10_state.md R40, R63). The value 3 does not exist. -/
inductive TreeKind where
  | empty
  | degen
  | normal
deriving DecidableEq, Repr

/-- ERRCODE (60_exceptions.md R350). The codes 6 to 15 do not exist. -/
inductive ErrCode where
  | none
  | bus
  | absent
  | badcmd
  | stream
  | eos
deriving DecidableEq, Repr

/-- What `raise` records (60_exceptions.md R351): the code, the address before it is taken mod 2^32, the info word. -/
structure Err where
  code : ErrCode
  addr : Nat
  info : Word
deriving DecidableEq, Repr

/-- One entry of the node arena (10_state.md R62). -/
structure Node where
  leaf : Bool
  sym : Nat
  w : Nat
  left : Nat
  right : Nat
deriving DecidableEq, Repr

/-- What CORE is doing; STATUS.BUSY is 1 in the last two (10_state.md R36). -/
inductive Phase where
  /-- No command runs. -/
  | idle
  /-- The accepted command word is running (30_encoding.md R131). -/
  | running (c : Word)
  /-- Reset initialisation runs (70_reset_and_hazards.md R401). -/
  | resetting
deriving DecidableEq, Repr

/-- The tree (10_state.md R62, R63): TREE_KIND, ROOT, NNODES, NSYMS and the node arena. -/
structure Tree where
  kind : TreeKind
  root : Nat
  nnodes : Nat
  nsyms : Nat
  node : Sparse Node
deriving DecidableEq, Repr

/-- The bitstream writer (10_state.md R65). -/
structure Writer where
  wopen : Bool
  wbase : Word
  wacc : Byte
  wcnt : Nat
  wbits : Nat
  wbytes : Nat
  outValid : Bool
deriving DecidableEq, Repr

/-- The bitstream reader (10_state.md R66). -/
structure Reader where
  ropen : Bool
  rbase : Word
  rlen : Nat
  rpos : Nat
  rbyte : Byte
  rdata : Bool
deriving DecidableEq, Repr

/-- The two agents (00_scope.md R2). -/
inductive Agent where
  | host
  | core
deriving DecidableEq, Repr

/-- Which way an access goes (60_exceptions.md R351, dir). -/
inductive Dir where
  | read
  | write
deriving DecidableEq, Repr

/-- A run of data-memory bytes a command reads or writes (20_memory.md R120). -/
structure Span where
  dir : Dir
  base : Nat
  len : Nat
deriving DecidableEq, Repr

/-- HOST: its program and the next statement (30_encoding.md R138), what its last read returned, whether every check
held, the order of the two agents while CORE is busy (log 3), and what HOST has not seen yet (20_memory.md R113,
R114; log 8, 9). All of it is the model's, none of it is HUFFCORE's. -/
structure HostState where
  prog : List HostStmt
  pc : Nat
  rdata : Word
  checksOk : Bool
  sched : List Agent
  unseen : Bool
  guard : List Span
deriving DecidableEq, Repr

/-- The state of the machine. Names are the manual's; each field's rule is in INVENTORY.md, State. -/
structure State where
  cfg : Config
  phase : Phase
  ie : Bool
  done : Bool
  err : Bool
  ovr : Bool
  errcode : ErrCode
  errAddr : Word
  errInfo : Word
  inAddr : Word
  inLen : Word
  outAddr : Word
  srcAddr : Word
  srcBits : BitVec 64
  dstAddr : Word
  hsel : BitVec 16
  csel : BitVec 16
  cwsel : BitVec 16
  nsel : BitVec 17
  hist : Sparse Word
  tree : Tree
  ct : Sparse (List Bool)
  wr : Writer
  rd : Reader
  dstLen : Nat
  dstValid : Bool
  mem : Memory
  freeCtr : Nat
  host : HostState
deriving DecidableEq, Repr

/-- Why the machine stops. Both are HOST's doing: no command ends in a fault. -/
inductive Fault where
  /-- Raised by a HOST data-memory access (`hostMemWrite`, `hostMemRead`) to a byte a command uses before HOST has
  seen BUSY = 0 (20_memory.md R114, 70_reset_and_hazards.md R412): the spec gives the run no meaning
  (93_implementation_defined.md I9, treatment `fault`). Safe. -/
  | footprintViolation (addr : Nat)
  /-- Raised by a HOST data-memory access at an address at or above MEM_SIZE: the byte does not exist
  (20_memory.md R100). Safe. -/
  | hostAddressOutOfRange (addr : Nat)
deriving DecidableEq, Repr

/-- Why an instruction has no meaning. -/
inductive Refusal where
  /-- Raised by `exec` for an instruction that has no meaning yet; no arm uses it. Safe. -/
  | notModelled (mnemonic : String)
deriving DecidableEq, Repr

/-- The empty-tree sentinel with a cleared arena (10_state.md R63, R70). -/
def Tree.reset : Tree := { kind := .empty, root := 0, nnodes := 0, nsyms := 0, node := [] }

/-- The writer after reset (10_state.md R65). -/
def Writer.reset : Writer :=
  { wopen := false, wbase := 0, wacc := 0, wcnt := 0, wbits := 0, wbytes := 0, outValid := false }

/-- The reader after reset (10_state.md R66). -/
def Reader.reset : Reader :=
  { ropen := false, rbase := 0, rlen := 0, rpos := 0, rbyte := 0, rdata := false }

/-- HOST before it has done anything (DESIGN CHOICE, log 4). -/
def HostState.reset : HostState :=
  { prog := [], pc := 0, rdata := 0, checksOk := true, sched := [], unseen := false, guard := [] }

/-- The machine after reset initialisation: every value of 10_state.md R70, in the reference configuration (log 1),
with nothing listed in memory. -/
def State.reset : State where
  cfg := Config.reference
  phase := .idle
  ie := false
  done := false
  err := false
  ovr := false
  errcode := .none
  errAddr := 0
  errInfo := 0
  inAddr := 0
  inLen := 0
  outAddr := 0
  srcAddr := 0
  srcBits := 0
  dstAddr := 0
  hsel := 0
  csel := 0
  cwsel := 0
  nsel := 0
  hist := []
  tree := Tree.reset
  ct := []
  wr := Writer.reset
  rd := Reader.reset
  dstLen := 0
  dstValid := false
  mem := []
  freeCtr := 0
  host := HostState.reset

end Sys2Proof.Machine
end

