-- ==== Sys2Proof/Machine/Params.lean ====
section
/-! DEFINITION. The constants derived from the two parameters (00_scope.md R6, R7, R8). -/

namespace Sys2Proof

/-- SYM_W in bits (00_scope.md R5). -/
def SymW.bits : SymW → Nat
  | .w8 => 8
  | .w16 => 16

namespace Config

/-- SYM_W (00_scope.md R5). -/
def symBits (c : Config) : Nat := c.symW.bits

/-- NSYM = 2^SYM_W (00_scope.md R6). -/
def nsym (c : Config) : Nat := 2 ^ c.symBits

/-- SB = SYM_W / 8, the bytes of a symbol in data memory (00_scope.md R6). -/
def sb (c : Config) : Nat := c.symBits / 8

/-- MAXNODES = 2*NSYM - 1, the size of the node arena (00_scope.md R6). -/
def maxNodes (c : Config) : Nat := 2 * c.nsym - 1

/-- NIDX_W = SYM_W + 1 (00_scope.md R6). -/
def nidxBits (c : Config) : Nat := c.symBits + 1

/-- MAXCODE = NSYM - 1, the longest code (00_scope.md R6). -/
def maxCode (c : Config) : Nat := c.nsym - 1

/-- CNT_W = 32 (00_scope.md R7). -/
def cntBits : Nat := 32

/-- WGT_W = 32 + SYM_W (00_scope.md R7). -/
def wgtBits (c : Config) : Nat := 32 + c.symBits

/-- MEM_SIZE, 1 to 2^32 (00_scope.md R8). -/
def memSize (c : Config) : Nat := c.memTop.toNat + 1

end Config

end Sys2Proof
end

