-- ==== Sys2Proof/Machine/Ops.lean ====
section
/-! DEFINITION. The shared operations: sparse memories, the data-memory primitives (20_memory.md R102, R103), and how
a command ends, normally or by `raise` (60_exceptions.md R352, R353). -/

namespace Sys2Proof.Machine

/-- The value at index `a`, `d` where nothing is listed. -/
def Sparse.get {α : Type} (d : α) : Sparse α → Nat → α
  | [], _ => d
  | (k, v) :: m, a => if k = a then v else Sparse.get d m a

/-- `m` with the value at index `a` replaced by `v`; an entry equal to the unlisted value `d` is taken out, so that
the canonical form is kept. -/
def Sparse.set {α : Type} [DecidableEq α] (d : α) : Sparse α → Nat → α → Sparse α
  | [], a, v => if v = d then [] else [(a, v)]
  | (k, x) :: m, a, v =>
    if a < k then (if v = d then (k, x) :: m else (a, v) :: (k, x) :: m)
    else if a = k then (if v = d then m else (a, v) :: m)
    else (k, x) :: Sparse.set d m a v

/-- The canonical form: indices strictly rising, no entry equal to the unlisted value. -/
abbrev Sparse.wf {α : Type} [DecidableEq α] (d : α) (m : Sparse α) : Prop :=
  m.Pairwise (fun x y => x.1 < y.1) ∧ ∀ e ∈ m, e.2 ≠ d

/-- Every listed index is below `n`. -/
abbrev Sparse.below {α : Type} (n : Nat) (m : Sparse α) : Prop := ∀ e ∈ m, e.1 < n

/-! ## The data memory -/

/-- What a byte nothing has written reads as: DESIGN CHOICE 0x00 (log 6), unsafe; the spec's own vectors start so. -/
def Memory.unlisted : Byte := 0

/-- mem[a] (20_memory.md R103). -/
def Memory.read (m : Memory) (a : Nat) : Byte := Sparse.get Memory.unlisted m a

/-- mem[a] <- v (20_memory.md R103). -/
def Memory.write (m : Memory) (a : Nat) (v : Byte) : Memory := Sparse.set Memory.unlisted m a v

/-- The canonical form of the data memory. -/
abbrev Memory.wf (m : Memory) : Prop := Sparse.wf Memory.unlisted m

/-- The n-byte little-endian value at `a` (20_memory.md R103). -/
def Memory.readLE (m : Memory) (a : Nat) : Nat → Nat
  | 0 => 0
  | n + 1 => (m.read a).toNat + 256 * Memory.readLE m (a + 1) n

/-- Writes the low n bytes of `v` at `a`, little-endian (20_memory.md R103). -/
def Memory.writeLE (m : Memory) (a : Nat) : Nat → Nat → Memory
  | 0, _ => m
  | n + 1, v => Memory.writeLE (m.write a (BitVec.ofNat 8 v)) (a + 1) n (v / 256)

/-- InRange(a, n): natural numbers, no wrap (20_memory.md R102). -/
def inRange (s : State) (a n : Nat) : Bool := decide (a + n ≤ s.cfg.memSize)

/-! ## Running a command -/

/-- How far a command's pseudocode has come: it goes on with a value, or it has raised. -/
inductive Run (α : Type) where
  | ok (a : α) (s : State)
  | raised (e : Err) (s : State)
deriving Repr

/-- dir of a BUS record: 0 for a read, 1 for a write (60_exceptions.md R351). -/
def Dir.bit : Dir → Nat
  | .read => 0
  | .write => 1

/-- BUS at address `a`, raised by the command with opcode `op`: ERR_INFO = (OP << 8) OR dir (60_exceptions.md
R351). -/
def busErr (op a : Nat) (d : Dir) : Err :=
  { code := .bus, addr := a, info := BitVec.ofNat 32 (op <<< 8 ||| d.bit) }

/-- ABSENT: the symbol's address and value (60_exceptions.md R351). -/
def absentErr (a sym : Nat) : Err := { code := .absent, addr := a, info := BitVec.ofNat 32 sym }

/-- BADCMD: address 0 and the word itself (60_exceptions.md R351). -/
def badcmdErr (c : Word) : Err := { code := .badcmd, addr := 0, info := c }

/-- STREAM: address 0 and the opcode of the refusing command (60_exceptions.md R351). -/
def streamErr (op : Nat) : Err := { code := .stream, addr := 0, info := BitVec.ofNat 32 op }

/-- EOS: address 0 and RBIT's opcode (60_exceptions.md R351). -/
def eosErr : Err := { code := .eos, addr := 0, info := 0x0B#32 }

/-- complete(): BUSY <- 0, DONE <- 1 (60_exceptions.md R353). -/
def complete (s : State) : State := { s with phase := .idle, done := true }

/-- `raise`: records ERR, ERRCODE, ERR_ADDR (mod 2^32) and ERR_INFO, then completes; no rollback, no vector, nothing
else saved (60_exceptions.md R352, R358). There is no return from it (R359): the record stays until the next accepted
command. -/
def raiseErr (e : Err) (s : State) : State :=
  complete { s with err := true, errcode := e.code, errAddr := BitVec.ofNat 32 e.addr, errInfo := e.info }

/-- The end of a command, after its last pseudocode step or its first raise (00_scope.md R3). -/
def finish : Run Unit → Host.Outcome State Fault Refusal
  | .ok _ s => .next (complete s)
  | .raised e s => .next (raiseErr e s)

/-- MemRead(a, n) inside the command with opcode `op` (20_memory.md R103). -/
def memRead (op a n : Nat) (s : State) : Run Nat :=
  if inRange s a n then .ok (s.mem.readLE a n) s else .raised (busErr op a .read) s

/-- MemWrite(a, n, v) inside the command with opcode `op` (20_memory.md R103). -/
def memWrite (op a n v : Nat) (s : State) : Run Unit :=
  if inRange s a n then .ok () { s with mem := s.mem.writeLE a n v } else .raised (busErr op a .write) s

/-! ## The internal memories -/

/-- HIST[x], 0 where nothing is listed (10_state.md R61). -/
def State.histAt (s : State) (x : Nat) : Word := Sparse.get 0 s.hist x

/-- HIST[x] <- v (10_state.md R61). -/
def State.setHist (s : State) (x : Nat) (v : Word) : State := { s with hist := Sparse.set 0 s.hist x v }

/-- CT[x].bits; CT[x].len is its length (10_state.md R64). -/
def State.codeAt (s : State) (x : Nat) : List Bool := Sparse.get [] s.ct x

/-- An arena entry at its reset value (10_state.md R62). -/
def Node.zero : Node := { leaf := false, sym := 0, w := 0, left := 0, right := 0 }

/-- NODE[i] (10_state.md R62). -/
def nodeAt (m : Sparse Node) (i : Nat) : Node := Sparse.get Node.zero m i

/-- NODE[i] <- x (10_state.md R62). -/
def setNode (m : Sparse Node) (i : Nat) (x : Node) : Sparse Node := Sparse.set Node.zero m i x

/-- NODE[i] of the current tree (10_state.md R62). -/
def State.nodeAt (s : State) (i : Nat) : Node := Machine.nodeAt s.tree.node i

end Sys2Proof.Machine
end

