-- ==== Sys2Proof/Machine/Flags.lean ====
section
/-! DEFINITION. STATUS and irq as functions of the state (10_state.md R36 to R43, 60_exceptions.md R360). -/

namespace Sys2Proof.Machine

/-- The 4-bit ERRCODE (60_exceptions.md R350). -/
def ErrCode.toNat : ErrCode → Nat
  | .none => 0
  | .bus => 1
  | .absent => 2
  | .badcmd => 3
  | .stream => 4
  | .eos => 5

/-- The 2-bit TREE_KIND (10_state.md R40). -/
def TreeKind.toNat : TreeKind → Nat
  | .empty => 0
  | .degen => 1
  | .normal => 2

/-- HasMore(): ROPEN = 1 and RPOS < RLEN (40_stream.md R174). -/
def State.hasMore (s : State) : Bool := s.rd.ropen && decide (s.rd.rpos < s.rd.rlen)

/-- STATUS.BUSY (10_state.md R36). -/
def State.busy (s : State) : Bool := s.phase != .idle

/-- irq = CTRL.IE AND STATUS.DONE (60_exceptions.md R360). -/
def State.irq (s : State) : Bool := s.ie && s.done

/-- Bits 7:0 of STATUS: BUSY, DONE, ERR, OVR, ERRCODE (10_state.md section 2.1). -/
def State.statusLow (s : State) : Nat :=
  s.busy.toNat + 2 * s.done.toNat + 4 * s.err.toNat + 8 * s.ovr.toNat + 16 * s.errcode.toNat

/-- Bits 14:8 of STATUS, as a number: TREE_KIND, OUT_VALID, DST_VALID, WOPEN, ROPEN, RHASMORE (10_state.md section
2.1). -/
def State.statusHigh (s : State) : Nat :=
  s.tree.kind.toNat + 4 * s.wr.outValid.toNat + 8 * s.dstValid.toNat + 16 * s.wr.wopen.toNat
    + 32 * s.rd.ropen.toNat + 64 * s.hasMore.toNat

/-- STATUS (10_state.md section 2.1). -/
def State.statusWord (s : State) : Word := BitVec.ofNat 32 (s.statusLow + 256 * s.statusHigh)

end Sys2Proof.Machine
end

