-- ==== Sys2Proof/Machine/Control.lean ====
section
/-! DEFINITION. NOP and CLEAR (46_control.md). -/

namespace Sys2Proof.Machine

/-- NOP: nothing but acceptance and completion (46_control.md R330). -/
def execNop (s : State) : Host.Outcome State Fault Refusal := finish (.ok () s)

/-- CLEAR's effect: every internal memory, the tree, the table, both streams and the decoder output at their reset
values; no memory access, so an open writer's partial byte is lost (46_control.md R331, R332). -/
def clearInternal (s : State) : State :=
  { s with
    hist := []
    ct := []
    tree := Tree.reset
    wr := Writer.reset
    rd := Reader.reset
    dstLen := 0
    dstValid := false }

/-- CLEAR (46_control.md R331). -/
def execClear (s : State) : Host.Outcome State Fault Refusal := finish (.ok () (clearInternal s))

end Sys2Proof.Machine
end

