-- ==== Sys2Proof/Decode.lean ====
section
/-! DEFINITION. Command words: the fields (30_encoding.md R130), validity (R134), the decoder (R135) and the encoder
(R132). -/

namespace Sys2Proof

/-- OP, bits 3:0 (30_encoding.md R130). -/
def fieldOp (c : Word) : Nat := (c.extractLsb' 0 4).toNat

/-- Bits 7:4, reserved, must be 0 (30_encoding.md R130). -/
def fieldMid (c : Word) : Nat := (c.extractLsb' 4 4).toNat

/-- B, bit 8 (30_encoding.md R130, R133). -/
def fieldB (c : Word) : Bool := c.getLsbD 8

/-- Bits 31:9, reserved, must be 0 (30_encoding.md R130). -/
def fieldHigh (c : Word) : Nat := (c.extractLsb' 9 23).toNat

/-- Valid(c), the formula of 30_encoding.md R134. -/
def Valid (c : Word) : Prop :=
  fieldOp c ≤ 0xC ∧ fieldMid c = 0 ∧ fieldHigh c = 0 ∧ (fieldB c = false ∨ fieldOp c = 0x8)

/-- Why a word is no command (30_encoding.md R134). -/
inductive DecodeError where
  /-- A reserved bit, 7:4 or 31:9, is not 0. -/
  | reservedBitSet
  /-- B is 1 and OP is not WBIT's. -/
  | operandNotAllowed
  /-- OP is 0xD, 0xE or 0xF. -/
  | reservedOpcode
deriving DecidableEq, Repr

/-- The opcode map (30_encoding.md R132). -/
def decodeOp (op : Nat) (b : Bool) : Except DecodeError Instr :=
  match op with
  | 0x0 => .ok .nop
  | 0x1 => .ok .analyze
  | 0x2 => .ok .buildtree
  | 0x3 => .ok .buildtable
  | 0x4 => .ok .compress
  | 0x5 => .ok .decompress
  | 0x6 => .ok .clear
  | 0x7 => .ok .wopen
  | 0x8 => .ok (.wbit b)
  | 0x9 => .ok .wclose
  | 0xA => .ok .ropen
  | 0xB => .ok .rbit
  | 0xC => .ok .rclose
  | _ => .error .reservedOpcode

/-- The decoder: total, every word is one of the 14 valid commands or is rejected by name (30_encoding.md R134,
R135). -/
def decode (c : Word) : Except DecodeError Instr :=
  if fieldMid c ≠ 0 ∨ fieldHigh c ≠ 0 then .error .reservedBitSet
  else if fieldB c = true ∧ fieldOp c ≠ 0x8 then .error .operandNotAllowed
  else decodeOp (fieldOp c) (fieldB c)

/-- The opcode of a command (30_encoding.md R132). -/
def opcode : Instr → Nat
  | .nop => 0x0
  | .analyze => 0x1
  | .buildtree => 0x2
  | .buildtable => 0x3
  | .compress => 0x4
  | .decompress => 0x5
  | .clear => 0x6
  | .wopen => 0x7
  | .wbit _ => 0x8
  | .wclose => 0x9
  | .ropen => 0xA
  | .rbit => 0xB
  | .rclose => 0xC

/-- The operand bit of a command, 0 where it has none (30_encoding.md R130). -/
def operandBit : Instr → Bool
  | .wbit b => b
  | .nop | .analyze | .buildtree | .buildtable | .compress | .decompress | .clear => false
  | .wopen | .wclose | .ropen | .rbit | .rclose => false

/-- The word of a command (30_encoding.md R130, R132; the `cmd` pseudo-statement of R139 uses it). -/
def encode (i : Instr) : Word := BitVec.ofNat 32 (opcode i + 0x100 * (operandBit i).toNat)

/-- The instruction the decoder reads from a table row's bits: one word, bit 0 its least significant bit, every bit
from `nbits` up taken as 0. -/
def decodeTableWord (nbits w : Nat) : Option Instr :=
  match decode (BitVec.ofNat 32 (w % 2 ^ nbits)) with
  | .ok i => some i
  | .error _ => none

end Sys2Proof
end

