-- ==== Sys2Proof/Machine/Operands.lean ====
section
/-! DEFINITION. The operands of the commands: the configuration registers as numbers, and the three shapes of
data-memory element (20_memory.md R104; 30_encoding.md R137). -/

namespace Sys2Proof.Machine

namespace State

/-- IN_LEN as a count (10_state.md R48). -/
def inCount (s : State) : Nat := s.inLen.toNat

/-- The address of input symbol i: IN_ADDR + i*SB, no wrap (10_state.md R48, 20_memory.md R102). -/
def inSymAddr (s : State) (i : Nat) : Nat := s.inAddr.toNat + i * s.cfg.sb

/-- The address of output symbol k: DST_ADDR + k*SB (10_state.md R52). -/
def outSymAddr (s : State) (k : Nat) : Nat := s.dstAddr.toNat + k * s.cfg.sb

/-- Where the writer puts its next byte: WBASE + WBYTES (40_stream.md R164). -/
def wbyteAddr (s : State) : Nat := s.wr.wbase.toNat + s.wr.wbytes

/-- The artifact byte that holds the reader's next bit: RBASE + RPOS div 8 (40_stream.md R169). -/
def rbyteAddr (s : State) : Nat := s.rd.rbase.toNat + s.rd.rpos / 8

/-- Input symbol i as it stands in memory (20_memory.md R104). -/
def inSym (s : State) (i : Nat) : Nat := s.mem.readLE (s.inSymAddr i) s.cfg.sb

end State

/-- Reads input symbol i (20_memory.md R104). -/
def readInSym (op i : Nat) (s : State) : Run Nat := memRead op (s.inSymAddr i) s.cfg.sb s

/-- Writes output symbol k (20_memory.md R104). -/
def writeOutSym (op k sym : Nat) (s : State) : Run Unit := memWrite op (s.outSymAddr k) s.cfg.sb sym s

end Sys2Proof.Machine
end

