-- ==== Sys2Proof/Machine/BitStream.lean ====
section
/-! DEFINITION. The bitstream primitives that COMPRESS, DECOMPRESS and the stream commands share (40_stream.md,
section 2). `op` is the running command's opcode, which a BUS records. -/

namespace Sys2Proof.Machine

/-- WOpen(base) (40_stream.md R162). -/
def wOpen (base : Word) (s : State) : State :=
  { s with wr := { wopen := true, wbase := base, wacc := 0, wcnt := 0, wbits := 0, wbytes := 0, outValid := false } }

/-- The writer after a failed artifact write: released, nothing flushed, its counters kept (40_stream.md R165);
OUT_VALID is 0, as 10_state.md R41 says of a command that owns the writer and ends by `raise` (log 20). -/
def releaseWriter (s : State) : State := { s with wr := { s.wr with wopen := false, outValid := false } }

/-- MemWrite of one artifact byte at WBASE + WBYTES; on BUS the writer is released first (40_stream.md R164 to
R166). -/
def writeArtifactByte (op : Nat) (v : Byte) (s : State) : Run Unit :=
  match memWrite op s.wbyteAddr 1 v.toNat s with
  | .ok _ s => .ok () s
  | .raised e s => .raised e (releaseWriter s)

/-- The three counters and the partial byte after one more bit (40_stream.md R164, the first three lines). -/
def shiftIn (b : Bool) (w : Writer) : Writer :=
  { w with wacc := BitVec.ofNat 8 (2 * w.wacc.toNat + b.toNat), wcnt := w.wcnt + 1, wbits := w.wbits + 1 }

/-- The writer once its partial byte has gone out: one more byte, nothing pending. -/
def byteOut (s : State) : State :=
  { s with wr := { s.wr with wbytes := s.wr.wbytes + 1, wacc := 0, wcnt := 0 } }

/-- WriteBit(b) (40_stream.md R164). -/
def writeBit (op : Nat) (b : Bool) (s : State) : Run Unit :=
  let s := { s with wr := shiftIn b s.wr }
  if s.wr.wcnt = 8 then
    match writeArtifactByte op s.wr.wacc s with
    | .ok _ s => .ok () (byteOut s)
    | .raised e s => .raised e s
  else .ok () s

/-- The bits of a code, in code order (44_encode.md R271, the inner loop). -/
def writeBits (op : Nat) : List Bool → State → Run Unit
  | [], s => .ok () s
  | b :: bs, s =>
    match writeBit op b s with
    | .ok _ s => writeBits op bs s
    | .raised e s => .raised e s

/-- The zero-padded partial byte, (WACC * 2^(8 - WCNT)) mod 256 (40_stream.md R166). -/
def paddedByte (w : Writer) : Byte := BitVec.ofNat 8 (w.wacc.toNat * 2 ^ (8 - w.wcnt))

/-- The last lines of WClose (40_stream.md R166). -/
def closeWriter (s : State) : State :=
  { s with wr := { s.wr with wacc := 0, wcnt := 0, wopen := false, outValid := true } }

/-- WClose(), the normal close (40_stream.md R166). -/
def wClose (op : Nat) (s : State) : Run Unit :=
  if s.wr.wcnt > 0 then
    match writeArtifactByte op (paddedByte s.wr) s with
    | .ok _ s => .ok () (closeWriter (byteOut s))
    | .raised e s => .raised e s
  else .ok () (closeWriter s)

/-- WCloseOnError(): flushes the partial byte if its address is in range, never raises (40_stream.md R167). -/
def wCloseOnError (s : State) : State :=
  let s :=
    if s.wr.wcnt > 0 ∧ inRange s s.wbyteAddr 1 = true then
      byteOut { s with mem := s.mem.write s.wbyteAddr (paddedByte s.wr) }
    else s
  { s with wr := { s.wr with wopen := false } }

/-- ROpen(base, len) (40_stream.md R168). -/
def rOpen (base : Word) (len : Nat) (s : State) : State :=
  { s with rd := { ropen := true, rbase := base, rlen := len, rpos := 0, rbyte := 0, rdata := false } }

/-- The reader released: ROPEN <- 0, everything else kept (40_stream.md R169, R177). -/
def closeReader (s : State) : State := { s with rd := { s.rd with ropen := false } }

/-- The first lines of ReadBit: at a byte boundary the next artifact byte is read; on BUS the reader is released
(40_stream.md R169). -/
def fetchRbyte (op : Nat) (s : State) : Run Unit :=
  if s.rd.rpos % 8 = 0 then
    match memRead op s.rbyteAddr 1 s with
    | .ok v s => .ok () { s with rd := { s.rd with rbyte := BitVec.ofNat 8 v } }
    | .raised e s => .raised e (closeReader s)
  else .ok () s

/-- ReadBit() (40_stream.md R169). -/
def readBit (op : Nat) (s : State) : Run Bool :=
  match fetchRbyte op s with
  | .ok _ s => .ok (s.rd.rbyte.getLsbD (7 - s.rd.rpos % 8)) { s with rd := { s.rd with rpos := s.rd.rpos + 1 } }
  | .raised e s => .raised e s

end Sys2Proof.Machine
end

