-- ==== Sys2Proof/Machine/Decoder.lean ====
section
/-! DEFINITION. DECOMPRESS (45_decode.md). -/

namespace Sys2Proof.Machine

/-- Emit(sym): one output symbol; on BUS the reader is released (45_decode.md R301, R309). -/
def emit (op sym : Nat) (s : State) : Run Unit :=
  match writeOutSym op s.dstLen sym s with
  | .ok _ s => .ok () { s with dstLen := s.dstLen + 1 }
  | .raised e s => .raised e (closeReader s)

/-- Before a bit is consumed: a leaf is emitted and the position goes back to ROOT (45_decode.md R301). -/
def emitIfLeaf (op pos : Nat) (s : State) : Run Nat :=
  if (s.nodeAt pos).leaf then
    match emit op (s.nodeAt pos).sym s with
    | .ok _ s => .ok s.tree.root s
    | .raised e s => .raised e s
  else .ok pos s

/-- One step of the walk: bit 0 left, bit 1 right in a NORMAL tree; the position of a DEGEN tree never moves
(45_decode.md R302, R306). -/
def walkBit (b : Bool) (pos : Nat) (s : State) : Nat :=
  match s.tree.kind with
  | .normal => if b then (s.nodeAt pos).right else (s.nodeAt pos).left
  | .degen => pos
  | .empty => pos

/-- The loop `while HasMore()` (45_decode.md R301). It consumes one bit a pass, so RLEN passes are enough; answers
the last position. -/
def decodeLoop (op : Nat) : Nat → Nat → State → Run Nat
  | 0, pos, s => .ok pos s
  | n + 1, pos, s =>
    if s.hasMore then
      match emitIfLeaf op pos s with
      | .raised e s => .raised e s
      | .ok pos s =>
        match readBit op s with
        | .raised e s => .raised e s
        | .ok b s => decodeLoop op n (walkBit b pos s) s
    else .ok pos s

/-- The final emission of a NORMAL tree (45_decode.md R301, R304). -/
def finalEmit (op pos : Nat) (s : State) : Run Unit :=
  if s.tree.kind = .normal ∧ (s.nodeAt pos).leaf = true then emit op (s.nodeAt pos).sym s else .ok () s

/-- The normal end: ROPEN <- 0, DST_VALID <- 1 (45_decode.md R301). -/
def closeDecoder (s : State) : State := { closeReader s with dstValid := true }

/-- A tree that is not empty: open the reader, walk, emit, close (45_decode.md R301). -/
def decodeBody (op : Nat) (s : State) : Run Unit :=
  match decodeLoop op s.srcBits.toNat s.tree.root (rOpen s.srcAddr s.srcBits.toNat s) with
  | .raised e s => .raised e s
  | .ok pos s =>
    match finalEmit op pos s with
    | .raised e s => .raised e s
    | .ok _ s => .ok () (closeDecoder s)

/-- Everything after the STREAM check; an empty tree opens no reader and reads no bit (45_decode.md R301, R307). -/
def decompressBody (op : Nat) (s : State) : Run Unit :=
  let s := { s with dstValid := false, dstLen := 0 }
  if s.tree.kind = .empty then .ok () { s with dstValid := true } else decodeBody op s

/-- DECOMPRESS (45_decode.md R301, R310). -/
def execDecompress (s : State) : Host.Outcome State Fault Refusal :=
  if s.rd.ropen then finish (.raised (streamErr (opcode .decompress)) s)
  else finish (decompressBody (opcode .decompress) s)

end Sys2Proof.Machine
end

