-- ==== Sys2Proof/Machine/Encoder.lean ====
section
/-! DEFINITION. COMPRESS (44_encode.md). -/

namespace Sys2Proof.Machine

/-- The code of symbol `x`, read at address `a`, goes to the writer; a symbol without a code releases the writer with
a flush and raises ABSENT (44_encode.md R271, R272). -/
def encodeSym (op a x : Nat) (s : State) : Run Unit :=
  if (s.codeAt x).length = 0 then .raised (absentErr a x) (wCloseOnError s)
  else writeBits op (s.codeAt x) s

/-- The `n` input symbols from index `i` on; a failed input read releases the writer with a flush (44_encode.md R271,
R276). -/
def encodeLoop (op : Nat) : Nat → Nat → State → Run Unit
  | 0, _, s => .ok () s
  | n + 1, i, s =>
    match readInSym op i s with
    | .raised e s => .raised e (wCloseOnError s)
    | .ok x s =>
      match encodeSym op (s.inSymAddr i) x s with
      | .ok _ s => encodeLoop op n (i + 1) s
      | .raised e s => .raised e s

/-- Everything after the STREAM check: open, encode, close (44_encode.md R271). -/
def compressBody (op : Nat) (s : State) : Run Unit :=
  match encodeLoop op s.inCount 0 (wOpen s.outAddr s) with
  | .ok _ s => wClose op s
  | .raised e s => .raised e s

/-- COMPRESS (44_encode.md R271, R277). -/
def execCompress (s : State) : Host.Outcome State Fault Refusal :=
  if s.wr.wopen then finish (.raised (streamErr (opcode .compress)) s)
  else finish (compressBody (opcode .compress) s)

end Sys2Proof.Machine
end

