-- ==== Sys2Proof/Machine/Histogram.lean ====
section
/-! DEFINITION. ANALYZE (41_histogram.md). -/

namespace Sys2Proof.Machine

/-- HIST[x] <- HIST[x] + 1 (41_histogram.md R200). -/
def countSym (x : Nat) (s : State) : State := s.setHist x (s.histAt x + 1)

/-- The `n` symbols from index `i` on, each read once, in order, and counted; the first out-of-range read raises and
leaves the counts so far (41_histogram.md R200, R204). -/
def countLoop (op : Nat) : Nat → Nat → State → Run Unit
  | 0, _, s => .ok () s
  | n + 1, i, s =>
    match readInSym op i s with
    | .ok x s => countLoop op n (i + 1) (countSym x s)
    | .raised e s => .raised e s

/-- ANALYZE (41_histogram.md R200). -/
def execAnalyze (s : State) : Host.Outcome State Fault Refusal :=
  finish (countLoop (opcode .analyze) s.inCount 0 { s with hist := [] })

end Sys2Proof.Machine
end

