-- ==== Sys2Proof/Machine/Stream.lean ====
section
/-! DEFINITION. The six stream commands (40_stream.md, section 3). -/

namespace Sys2Proof.Machine

/-- WOPEN (40_stream.md R170). -/
def execWopen (s : State) : Host.Outcome State Fault Refusal :=
  if s.wr.wopen then finish (.raised (streamErr (opcode .wopen)) s)
  else finish (.ok () (wOpen s.outAddr s))

/-- WBIT (40_stream.md R171). -/
def execWbit (b : Bool) (s : State) : Host.Outcome State Fault Refusal :=
  if s.wr.wopen then finish (writeBit (opcode (.wbit b)) b s)
  else finish (.raised (streamErr (opcode (.wbit b))) s)

/-- WCLOSE (40_stream.md R172). -/
def execWclose (s : State) : Host.Outcome State Fault Refusal :=
  if s.wr.wopen then finish (wClose (opcode .wclose) s)
  else finish (.raised (streamErr (opcode .wclose)) s)

/-- ROPEN (40_stream.md R173). -/
def execRopen (s : State) : Host.Outcome State Fault Refusal :=
  if s.rd.ropen then finish (.raised (streamErr (opcode .ropen)) s)
  else finish (.ok () (rOpen s.srcAddr s.srcBits.toNat s))

/-- RDATA <- ReadBit() (40_stream.md R176). -/
def deliverBit (op : Nat) (s : State) : Run Unit :=
  match readBit op s with
  | .ok b s => .ok () { s with rd := { s.rd with rdata := b } }
  | .raised e s => .raised e s

/-- RBIT (40_stream.md R176). -/
def execRbit (s : State) : Host.Outcome State Fault Refusal :=
  if s.rd.ropen then
    if s.rd.rpos ≥ s.rd.rlen then finish (.raised eosErr s) else finish (deliverBit (opcode .rbit) s)
  else finish (.raised (streamErr (opcode .rbit)) s)

/-- RCLOSE (40_stream.md R177). -/
def execRclose (s : State) : Host.Outcome State Fault Refusal :=
  if s.rd.ropen then finish (.ok () (closeReader s))
  else finish (.raised (streamErr (opcode .rclose)) s)

end Sys2Proof.Machine
end

