-- ==== Sys2Proof/Machine/TableBuilder.lean ====
section
/-! DEFINITION. BUILDTABLE (43_table.md). -/

namespace Sys2Proof.Machine

/-- CT[x] <- the code `bits` (10_state.md R64). -/
def setCode (ct : Sparse (List Bool)) (x : Nat) (bits : List Bool) : Sparse (List Bool) := Sparse.set [] ct x bits

/-- Walk(p, path): depth-first, left before right, bit 0 for left and 1 for right (43_table.md R250, R251). The depth
bound only stops a walk over an arena that is no tree, which BUILDTREE never makes (42_tree.md R226 item 6; log 12). -/
def walk (m : Sparse Node) : Nat → Nat → List Bool → Sparse (List Bool) → Sparse (List Bool)
  | 0, _, _, ct => ct
  | d + 1, p, path, ct =>
    if (nodeAt m p).leaf then setCode ct (nodeAt m p).sym path
    else walk m d (nodeAt m p).right (path ++ [true]) (walk m d (nodeAt m p).left (path ++ [false]) ct)

/-- The table of a tree: the whole table is rebuilt; the one-leaf tree is a case of its own, the code "1"
(43_table.md R251, R252, R253). Indices decrease along a walk (42_tree.md R226), so ROOT + 1 levels are enough. -/
def buildTable (t : Tree) : Sparse (List Bool) :=
  match t.kind with
  | .empty => []
  | .degen => setCode [] (nodeAt t.node t.root).sym [true]
  | .normal => walk t.node (t.root + 1) t.root [] []

/-- BUILDTABLE (43_table.md R251). -/
def execBuildtable (s : State) : Host.Outcome State Fault Refusal :=
  finish (.ok () { s with ct := buildTable s.tree })

end Sys2Proof.Machine
end

