-- ==== Sys2Proof/Machine/TreeBuilder.lean ====
section
/-! DEFINITION. BUILDTREE (42_tree.md). -/

namespace Sys2Proof.Machine

/-- The symbols of the FrequencyTable, ascending (41_histogram.md R202, 42_tree.md R221). -/
def presentSyms (s : State) : List Nat := (List.range s.cfg.nsym).filter (fun x => s.histAt x ≠ 0)

/-- A leaf of weight `w` (42_tree.md R222). -/
def Node.mkLeaf (sym w : Nat) : Node := { leaf := true, sym := sym, w := w, left := 0, right := 0 }

/-- Leaf seeding: the symbols take the indices from `k` on (42_tree.md R221). -/
def seedLeaves (s : State) : List Nat → Nat → Sparse Node → Sparse Node
  | [], _, m => m
  | x :: xs, k, m => seedLeaves s xs (k + 1) (setNode m k (Node.mkLeaf x (s.histAt x).toNat))

/-- The key order of the priority collection: lower weight first, then lower index (42_tree.md R223). -/
def keyLt (m : Sparse Node) (i j : Nat) : Bool :=
  decide ((nodeAt m i).w < (nodeAt m j).w ∨ ((nodeAt m i).w = (nodeAt m j).w ∧ i < j))

/-- PopMin(Q): the least node and the rest (42_tree.md R223). -/
def popMin (m : Sparse Node) : List Nat → Option (Nat × List Nat)
  | [] => none
  | i :: q =>
    match popMin m q with
    | none => some (i, [])
    | some (j, r) => if keyLt m j i then some (j, i :: r) else some (i, q)

/-- The internal node over `a` (popped first, left) and `b` (right), its weight their exact sum (42_tree.md R224,
R225). -/
def Node.mkInternal (m : Sparse Node) (a b : Nat) : Node :=
  { leaf := false, sym := 0, w := (nodeAt m a).w + (nodeAt m b).w, left := a, right := b }

/-- The merge loop: while Q holds two nodes, merge the two least into node `k` (42_tree.md R222). Each pass makes Q
one smaller, so as many passes as Q has nodes are enough. Answers the arena and the next free index. -/
def mergeLoop : Nat → Sparse Node → List Nat → Nat → Sparse Node × Nat
  | 0, m, _, k => (m, k)
  | n + 1, m, q, k =>
    match popMin m q with
    | none => (m, k)
    | some (a, q1) =>
      match popMin m q1 with
      | none => (m, k)
      | some (b, q2) => mergeLoop n (setNode m k (Node.mkInternal m a b)) (k :: q2) (k + 1)

/-- The tree BUILDTREE makes of HIST; arena entries it does not write keep what was there (42_tree.md R222, R230). -/
def buildTree (s : State) : Tree :=
  let syms := presentSyms s
  let n := syms.length
  let seeded := seedLeaves s syms 0 s.tree.node
  if n = 0 then { kind := .empty, root := 0, nnodes := 0, nsyms := 0, node := seeded }
  else if n = 1 then { kind := .degen, root := 0, nnodes := 1, nsyms := 1, node := seeded }
  else
    let (m, k) := mergeLoop n seeded (List.range n) n
    { kind := .normal, root := k - 1, nnodes := k, nsyms := n, node := m }

/-- BUILDTREE (42_tree.md R222). -/
def execBuildtree (s : State) : Host.Outcome State Fault Refusal := finish (.ok () { s with tree := buildTree s })

end Sys2Proof.Machine
end

