-- ==== Sys2Proof/Machine/Dispatch.lean ====
section
/-! DEFINITION. One arm per command: its rule, run to its end from the accepted state (00_scope.md R3). -/

namespace Sys2Proof.Machine

def exec (i : Instr) (s : State) : Host.Outcome State Fault Refusal :=
  match i with
  | .nop => Sys2Proof.Machine.execNop s
  | .analyze => Sys2Proof.Machine.execAnalyze s
  | .buildtree => Sys2Proof.Machine.execBuildtree s
  | .buildtable => Sys2Proof.Machine.execBuildtable s
  | .compress => Sys2Proof.Machine.execCompress s
  | .decompress => Sys2Proof.Machine.execDecompress s
  | .clear => Sys2Proof.Machine.execClear s
  | .wopen => Sys2Proof.Machine.execWopen s
  | .wbit b => Sys2Proof.Machine.execWbit b s
  | .wclose => Sys2Proof.Machine.execWclose s
  | .ropen => Sys2Proof.Machine.execRopen s
  | .rbit => Sys2Proof.Machine.execRbit s
  | .rclose => Sys2Proof.Machine.execRclose s

end Sys2Proof.Machine
end

