-- ==== Sys2Proof/Machine/Footprint.lean ====
section
/-! DEFINITION. The footprint of a command: the bytes it may read or write, computed from the state in which it is
accepted (20_memory.md R120). -/

namespace Sys2Proof.Machine

/-- Whether address `a` lies in the span. -/
def Span.has (p : Span) (a : Nat) : Bool := decide (p.base ≤ a ∧ a < p.base + p.len)

/-- The state a command ends in, for the counts that say how far it wrote. -/
def afterExec (i : Instr) (s : State) : State :=
  match exec i s with
  | .next t => t
  | .fault _ => s
  | .refused _ => s

/-- The first `n` symbols of the input region (20_memory.md R120). -/
def inputSpan (n : Nat) (s : State) : Span := { dir := .read, base := s.inAddr.toNat, len := n * s.cfg.sb }

/-- How many input symbols COMPRESS reads: those up to the first error; a failed read reads no byte (20_memory.md R103,
R120). -/
def symbolsRead (op : Nat) : Nat → Nat → State → Nat
  | 0, _, _ => 0
  | n + 1, i, s =>
    match readInSym op i s with
    | .raised _ _ => 0
    | .ok x s =>
      match encodeSym op (s.inSymAddr i) x s with
      | .ok _ s => symbolsRead op n (i + 1) s + 1
      | .raised _ _ => 1

/-- The footprint of a command (20_memory.md R120). A command that will refuse with STREAM, and DECOMPRESS of an empty
tree, access nothing (44_encode.md R277, 45_decode.md R307, R310). -/
def footprint (i : Instr) (s : State) : List Span :=
  match i with
  | .nop | .buildtree | .buildtable | .clear | .wopen | .ropen | .rclose => []
  | .analyze => [inputSpan s.inCount s]
  | .compress =>
    if s.wr.wopen then []
    else
      [inputSpan (symbolsRead (opcode .compress) s.inCount 0 (wOpen s.outAddr s)) s,
       { dir := .write, base := s.outAddr.toNat, len := (afterExec .compress s).wr.wbytes }]
  | .decompress =>
    if s.rd.ropen ∨ s.tree.kind = .empty then []
    else
      [{ dir := .read, base := s.srcAddr.toNat, len := (s.srcBits.toNat + 7) / 8 },
       { dir := .write, base := s.dstAddr.toNat, len := (afterExec .decompress s).dstLen * s.cfg.sb }]
  | .wbit _ => if s.wr.wopen ∧ s.wr.wcnt = 7 then [{ dir := .write, base := s.wbyteAddr, len := 1 }] else []
  | .wclose => if s.wr.wopen ∧ s.wr.wcnt > 0 then [{ dir := .write, base := s.wbyteAddr, len := 1 }] else []
  | .rbit =>
    if s.hasMore ∧ s.rd.rpos % 8 = 0 then [{ dir := .read, base := s.rbyteAddr, len := 1 }] else []

/-- The footprint of a command word; an invalid word accesses nothing (30_encoding.md R134). -/
def wordFootprint (c : Word) (s : State) : List Span :=
  match decode c with
  | .ok i => footprint i s
  | .error _ => []

end Sys2Proof.Machine
end

