-- ==== Sys2Proof/Machine/HostPort.lean ====
section
/-! DEFINITION. The register block: offsets, reads, writes, the windows, and the acceptance of a command
(10_state.md sections 2.1 to 2.4; 30_encoding.md R131; 70_reset_and_hazards.md R402, R410, R411). -/

namespace Sys2Proof.Machine

/-! ## Offsets -/

/-- The offset of a register (10_state.md R32). -/
def offsetOf : Reg → Nat
  | .id => 0x000
  | .config => 0x004
  | .memsz => 0x008
  | .ctrl => 0x00C
  | .cmd => 0x010
  | .status => 0x014
  | .errAddr => 0x018
  | .errInfo => 0x01C
  | .inAddr => 0x020
  | .inLen => 0x024
  | .outAddr => 0x028
  | .outBitsLo => 0x02C
  | .outBitsHi => 0x030
  | .outBytesLo => 0x034
  | .outBytesHi => 0x038
  | .srcAddr => 0x03C
  | .srcBitsLo => 0x040
  | .srcBitsHi => 0x044
  | .dstAddr => 0x048
  | .dstLenLo => 0x04C
  | .dstLenHi => 0x050
  | .nsyms => 0x054
  | .nnodes => 0x058
  | .root => 0x05C
  | .wstate => 0x060
  | .rstate => 0x064
  | .rposLo => 0x068
  | .rposHi => 0x06C
  | .hsel => 0x070
  | .hdata => 0x074
  | .csel => 0x078
  | .cwsel => 0x07C
  | .clen => 0x080
  | .cword => 0x084
  | .nsel => 0x088
  | .ninfo => 0x08C
  | .nleft => 0x090
  | .nright => 0x094
  | .nwgtLo => 0x098
  | .nwgtHi => 0x09C

/-- The registers in offset order (10_state.md R32). -/
def allRegs : List Reg :=
  [Reg.id, Reg.config, Reg.memsz, Reg.ctrl, Reg.cmd, Reg.status, Reg.errAddr, Reg.errInfo,
   Reg.inAddr, Reg.inLen, Reg.outAddr, Reg.outBitsLo, Reg.outBitsHi, Reg.outBytesLo, Reg.outBytesHi, Reg.srcAddr,
   Reg.srcBitsLo, Reg.srcBitsHi, Reg.dstAddr, Reg.dstLenLo, Reg.dstLenHi, Reg.nsyms, Reg.nnodes, Reg.root,
   Reg.wstate, Reg.rstate, Reg.rposLo, Reg.rposHi, Reg.hsel, Reg.hdata, Reg.csel, Reg.cwsel,
   Reg.clen, Reg.cword, Reg.nsel, Reg.ninfo, Reg.nleft, Reg.nright, Reg.nwgtLo, Reg.nwgtHi]

/-- The register an access of `bytes` bytes at `off` reaches: only aligned 32-bit accesses at the offset of a register
reach one; every other access reaches nothing (10_state.md R33). -/
def regOf (off bytes : Nat) : Option Reg :=
  if bytes = 4 then allRegs.find? (fun r => offsetOf r == off) else none

/-! ## Values of registers -/

/-- CONFIG (10_state.md R35). -/
def configWord (c : Config) : Word :=
  BitVec.ofNat 32 (c.symBits + 2 ^ 8 * Config.cntBits + 2 ^ 16 * c.wgtBits + 2 ^ 24 * 1)

/-- Code bit j, 0 beyond the code (10_state.md R57). -/
def codeBit (code : List Bool) (j : Nat) : Bool := code.getD j false

/-- A word from its 32 bits, the bit at position 31 first. -/
def wordOfBits (f : Fin 32 → Bool) : Word :=
  BitVec.ofNat 32 ((List.finRange 32).foldl (fun acc t => 2 * acc + (f t).toNat) 0)

/-- CWORD: bit 31 - t is code bit 32*CWSEL + t (10_state.md R57). -/
def cwordValue (code : List Bool) (cwsel : Nat) : Word := wordOfBits (fun t => codeBit code (32 * cwsel + t.val))

/-- The node NSEL selects, or none at NNODES and beyond (10_state.md R58). -/
def selectedNode (s : State) : Option Node :=
  if s.nsel.toNat < s.tree.nnodes then some (s.nodeAt s.nsel.toNat) else none

/-- NINFO of a node (10_state.md R58). -/
def ninfoOf (x : Node) : Word := BitVec.ofNat 32 (0x80000000 * x.leaf.toNat + x.sym)

/-- One field of the selected node, 0 where there is none (10_state.md R58). -/
def nodeWindow (s : State) (f : Node → Word) : Word :=
  match selectedNode s with
  | some x => f x
  | none => 0

/-- The low 32 bits of a counter. -/
def lowWord (n : Nat) : Word := BitVec.ofNat 32 n

/-- Bits 63:32 of a counter. -/
def highWord (n : Nat) : Word := BitVec.ofNat 32 (n / 2 ^ 32)

/-- What a register reads when no rule leaves its value open (10_state.md R32 to R58). -/
def regValue (r : Reg) (s : State) : Word :=
  match r with
  | .id => 0x48554646#32
  | .config => configWord s.cfg
  | .memsz => s.cfg.memTop
  | .ctrl => BitVec.ofNat 32 s.ie.toNat
  | .cmd => 0
  | .status => s.statusWord
  | .errAddr => s.errAddr
  | .errInfo => s.errInfo
  | .inAddr => s.inAddr
  | .inLen => s.inLen
  | .outAddr => s.outAddr
  | .outBitsLo => lowWord s.wr.wbits
  | .outBitsHi => highWord s.wr.wbits
  | .outBytesLo => lowWord s.wr.wbytes
  | .outBytesHi => highWord s.wr.wbytes
  | .srcAddr => s.srcAddr
  | .srcBitsLo => lowWord s.srcBits.toNat
  | .srcBitsHi => highWord s.srcBits.toNat
  | .dstAddr => s.dstAddr
  | .dstLenLo => lowWord s.dstLen
  | .dstLenHi => highWord s.dstLen
  | .nsyms => lowWord s.tree.nsyms
  | .nnodes => lowWord s.tree.nnodes
  | .root => lowWord s.tree.root
  | .wstate => BitVec.ofNat 32 (s.wr.wacc.toNat + 2 ^ 8 * s.wr.wcnt)
  | .rstate => BitVec.ofNat 32 s.rd.rdata.toNat
  | .rposLo => lowWord s.rd.rpos
  | .rposHi => highWord s.rd.rpos
  | .hsel => BitVec.ofNat 32 s.hsel.toNat
  | .hdata => s.histAt s.hsel.toNat
  | .csel => BitVec.ofNat 32 s.csel.toNat
  | .cwsel => BitVec.ofNat 32 s.cwsel.toNat
  | .clen => lowWord (s.codeAt s.csel.toNat).length
  | .cword => cwordValue (s.codeAt s.csel.toNat) s.cwsel.toNat
  | .nsel => BitVec.ofNat 32 s.nsel.toNat
  | .ninfo => nodeWindow s ninfoOf
  | .nleft => nodeWindow s (fun x => lowWord x.left)
  | .nright => nodeWindow s (fun x => lowWord x.right)
  | .nwgtLo => nodeWindow s (fun x => lowWord x.w)
  | .nwgtHi => nodeWindow s (fun x => highWord x.w)

/-! ## Kinds of register -/

/-- The RW registers a write to which is dropped while a command runs (10_state.md R59, 70_reset_and_hazards.md
R411). -/
def dropsWhileRunning : Reg → Bool
  | .cmd | .inAddr | .inLen | .outAddr | .srcAddr | .srcBitsLo | .srcBitsHi | .dstAddr => true
  | .hsel | .hdata | .csel | .cwsel | .nsel => true
  | .id | .config | .memsz | .ctrl | .status | .errAddr | .errInfo => false
  | .outBitsLo | .outBitsHi | .outBytesLo | .outBytesHi | .dstLenLo | .dstLenHi | .nsyms | .nnodes | .root => false
  | .wstate | .rstate | .rposLo | .rposHi | .clen | .cword | .ninfo | .nleft | .nright | .nwgtLo | .nwgtHi => false

/-- The registers whose value is known while a command runs: the constants, CTRL, the configuration registers and
selectors; CMD reads 0 at all times (70_reset_and_hazards.md R410, 10_state.md R46; log 16). STATUS has a rule of its
own. -/
def knownWhileRunning : Reg → Bool
  | .id | .config | .memsz | .ctrl | .cmd => true
  | .inAddr | .inLen | .outAddr | .srcAddr | .srcBitsLo | .srcBitsHi | .dstAddr => true
  | .hsel | .csel | .cwsel | .nsel => true
  | .status | .errAddr | .errInfo | .hdata => false
  | .outBitsLo | .outBitsHi | .outBytesLo | .outBytesHi | .dstLenLo | .dstLenHi | .nsyms | .nnodes | .root => false
  | .wstate | .rstate | .rposLo | .rposHi | .clen | .cword | .ninfo | .nleft | .nright | .nwgtLo | .nwgtHi => false

/-! ## Reads -/

/-- The bits of a register its "width used" names; the others read 0 (10_state.md R32). -/
def usedBits (c : Config) : Reg → Nat
  | .ctrl | .rstate => 0x1
  | .status => 0x7FFF
  | .nsyms => 0x1FFFF
  | .nnodes => 0x3FFFF
  | .root | .nsel | .nleft | .nright => 2 ^ c.nidxBits - 1
  | .wstate => 0xFFF
  | .hsel | .csel | .nwgtHi => 2 ^ c.symBits - 1
  | .cwsel | .clen => 0xFFFF
  | .ninfo => 0x8000FFFF
  | .id | .config | .memsz | .cmd | .errAddr | .errInfo | .inAddr | .inLen | .outAddr => 0xFFFFFFFF
  | .outBitsLo | .outBitsHi | .outBytesLo | .outBytesHi | .srcAddr | .srcBitsLo | .srcBitsHi => 0xFFFFFFFF
  | .dstAddr | .dstLenLo | .dstLenHi | .rposLo | .rposHi | .hdata | .cword | .nwgtLo => 0xFFFFFFFF

/-- The next free value; each is used once. -/
def takeFree (s : State) : Word × State := (Config.freeRead s.freeCtr, { s with freeCtr := s.freeCtr + 1 })

/-- A free value of a register's width (93_implementation_defined.md I3; log 7). -/
def freeOf (r : Reg) (s : State) : Word × State :=
  ((takeFree s).1 &&& BitVec.ofNat 32 (usedBits s.cfg r), (takeFree s).2)

/-- HOST has seen that the last command has ended: its effects are visible and its footprint is free
(20_memory.md R113). -/
def hostSees (s : State) : State := { s with host := { s.host with unseen := false, guard := [] } }

/-- STATUS while a command runs: bits 7:0 as they are, bits 14:8 unspecified, bits 31:15 0
(70_reset_and_hazards.md R410). -/
def statusWhileRunning (free : Word) (s : State) : Word :=
  BitVec.ofNat 32 (s.statusLow + 256 * (free.toNat % 128))

/-- A HOST read of a register: its value, or a free value where the rules leave it open: everything but BUSY during
reset initialisation (70_reset_and_hazards.md R402), the registers CORE may be changing while a command runs (R410)
and until HOST has seen it end (20_memory.md R113, log 8). A STATUS read that finds BUSY = 0 is what makes HOST see
the end. -/
def readReg (r : Reg) (s : State) : Word × State :=
  match s.phase with
  | .resetting => if r = .status then ((takeFree s).1 ||| 1#32, (takeFree s).2) else freeOf r s
  | .running _ =>
    if r = .status then (statusWhileRunning (takeFree s).1 s, (takeFree s).2)
    else if knownWhileRunning r then (regValue r s, s) else freeOf r s
  | .idle =>
    if r = .status then (s.statusWord, hostSees s)
    else if s.host.unseen = true ∧ knownWhileRunning r = false then freeOf r s else (regValue r s, s)

/-- A HOST read of `bytes` bytes at `off`: 0 where no register is reached (10_state.md R33). -/
def busRead (off bytes : Nat) (s : State) : Word × State :=
  match regOf off bytes with
  | some r => readReg r s
  | none => (0, s)

/-! ## Writes -/

/-- Acceptance of the word `c`, valid or not: BUSY <- 1, DONE, ERR, ERRCODE, ERR_ADDR, ERR_INFO <- 0, OVR unchanged
(30_encoding.md R131). From here on HOST must keep out of the command's footprint (20_memory.md R114). -/
def accept (c : Word) (s : State) : State :=
  { s with
    phase := .running c
    done := false
    err := false
    errcode := .none
    errAddr := 0
    errInfo := 0
    host := { s.host with unseen := true, guard := wordFootprint c s ++ s.host.guard } }

/-- A write of `v` to STATUS: DONE and OVR are write-1-to-clear, every other bit is ignored (10_state.md R44). -/
def writeStatus (v : Word) (s : State) : State :=
  { s with done := s.done && !v.getLsbD 1, ovr := s.ovr && !v.getLsbD 3 }

/-- A write of `v` to CTRL: bit 0 is IE, the rest ignored (10_state.md R45). -/
def writeCtrl (v : Word) (s : State) : State := { s with ie := v.getLsbD 0 }

/-- A selector keeps its low `n` bits; the others are RAZ/WI (10_state.md R56 to R58). -/
def lowBits (n : Nat) (v : Word) : Nat := v.toNat % 2 ^ n

/-- A write to a register while no command runs (10_state.md R44 to R59); RO registers ignore it (R33). -/
def writeIdle (r : Reg) (v : Word) (s : State) : State :=
  match r with
  | .ctrl => writeCtrl v s
  | .cmd => accept v s
  | .status => writeStatus v s
  | .inAddr => { s with inAddr := v }
  | .inLen => { s with inLen := v }
  | .outAddr => { s with outAddr := v }
  | .srcAddr => { s with srcAddr := v }
  | .srcBitsLo => { s with srcBits := BitVec.ofNat 64 (v.toNat + 2 ^ 32 * (s.srcBits.toNat / 2 ^ 32)) }
  | .srcBitsHi => { s with srcBits := BitVec.ofNat 64 (s.srcBits.toNat % 2 ^ 32 + 2 ^ 32 * v.toNat) }
  | .dstAddr => { s with dstAddr := v }
  | .hsel => { s with hsel := BitVec.ofNat 16 (lowBits s.cfg.symBits v) }
  | .hdata => s.setHist s.hsel.toNat v
  | .csel => { s with csel := BitVec.ofNat 16 (lowBits s.cfg.symBits v) }
  | .cwsel => { s with cwsel := BitVec.ofNat 16 (lowBits 16 v) }
  | .nsel => { s with nsel := BitVec.ofNat 17 (lowBits s.cfg.nidxBits v) }
  | .id | .config | .memsz | .errAddr | .errInfo => s
  | .outBitsLo | .outBitsHi | .outBytesLo | .outBytesHi | .dstLenLo | .dstLenHi | .nsyms | .nnodes | .root => s
  | .wstate | .rstate | .rposLo | .rposHi | .clen | .cword | .ninfo | .nleft | .nright | .nwgtLo | .nwgtHi => s

/-- A write to a register while a command runs: CTRL and STATUS take effect, a write to CMD or another RW register is
dropped and sets OVR, the rest is ignored (70_reset_and_hazards.md R411). -/
def writeRunning (r : Reg) (v : Word) (s : State) : State :=
  if r = .ctrl then writeCtrl v s
  else if r = .status then writeStatus v s
  else if dropsWhileRunning r then { s with ovr := true }
  else s

/-- A HOST write to a register; during reset initialisation every write is ignored (70_reset_and_hazards.md R402). -/
def writeReg (r : Reg) (v : Word) (s : State) : State :=
  match s.phase with
  | .idle => writeIdle r v s
  | .running _ => writeRunning r v s
  | .resetting => s

/-- A HOST write of `bytes` bytes at `off`: no effect where no register is reached (10_state.md R33). -/
def busWrite (off bytes : Nat) (v : Word) (s : State) : State :=
  match regOf off bytes with
  | some r => writeReg r v s
  | none => s

end Sys2Proof.Machine
end

