-- ==== Sys2Proof/Machine/Reset.lean ====
section
/-! DEFINITION. The reset input (70_reset_and_hazards.md, section 1). -/

namespace Sys2Proof.Machine

/-- Every piece of HUFFCORE state at its value of 10_state.md R70; the parameters, the data memory and HOST are not
HUFFCORE's and stay. -/
def resetRegs (p : Phase) (s : State) : State :=
  { State.reset with cfg := s.cfg, phase := p, mem := s.mem, freeCtr := s.freeCtr, host := s.host }

/-- The bytes of a run of `n` addresses from `a` on, each either kept or taken from `new`, as `pick` says. -/
def mixBytes (pick : Nat → Bool) (new : Memory) : Nat → Nat → Memory → Memory
  | 0, _, m => m
  | n + 1, a, m => mixBytes pick new n (a + 1) (if pick a then m.write a (new.read a) else m)

/-- The data memory a command leaves when reset abandons it: each byte of its write footprint holds its old value or
the one the command would have written, chosen byte by byte; every other byte is unchanged (70_reset_and_hazards.md
R403, log 10). -/
def abandonedMem (c : Word) (s : State) : Memory :=
  match decode c with
  | .error _ => s.mem
  | .ok i =>
    (footprint i s).foldl
      (fun m p =>
        match p.dir with
        | .write => mixBytes (Config.abandonedByteWritten s.freeCtr) (afterExec i s).mem p.len p.base m
        | .read => m)
      s.mem

/-- The data memory at the moment reset is asserted: changed only if a command is running. -/
def memAtReset (s : State) : Memory :=
  match s.phase with
  | .running c => abandonedMem c s
  | .idle => s.mem
  | .resetting => s.mem

/-- Reset is asserted: a running command is abandoned, an open writer is discarded without a flush, and reset
initialisation begins, BUSY = 1 (70_reset_and_hazards.md R401, R403). -/
def assertReset (s : State) : State :=
  { resetRegs .resetting { s with mem := memAtReset s } with
    freeCtr := s.freeCtr + 1
    host := { s.host with unseen := false } }

/-- Reset initialisation ends: every state at its reset value, BUSY <- 0, DONE not set (70_reset_and_hazards.md
R401). -/
def finishReset (s : State) : State := resetRegs .idle s

end Sys2Proof.Machine
end

