-- ==== Sys2Proof/Machine/HostAgent.lean ====
section
/-! DEFINITION. HOST as an agent: its next statement (30_encoding.md R138), its data-memory accesses (20_memory.md
R100, R114), and the platform's reset. -/

namespace Sys2Proof.Machine

/-- HOST goes on at statement `n`. -/
def gotoStmt (n : Nat) (s : State) : State := { s with host := { s.host with pc := n } }

/-- HOST goes on at the next statement. -/
def nextStmt (s : State) : State := gotoStmt (s.host.pc + 1) s

/-- A bus read as HOST sees it: the value is what its last read returned. -/
def hostRead (off bytes : Nat) (s : State) : State :=
  { (busRead off bytes s).2 with host := { (busRead off bytes s).2.host with rdata := (busRead off bytes s).1 } }

/-- Whether a HOST write to address `a` violates the footprint duty (70_reset_and_hazards.md R412). -/
def writeViolates (s : State) (a : Nat) : Bool := s.host.guard.any (fun p => p.has a)

/-- Whether a HOST read of address `a` violates the footprint duty: only bytes a command writes are barred
(70_reset_and_hazards.md R412). -/
def readViolates (s : State) (a : Nat) : Bool := s.host.guard.any (fun p => p.dir == .write && p.has a)

/-- HOST writes a byte of the data memory (20_memory.md R100, R114). -/
def hostMemWrite (a : Nat) (v : Byte) (s : State) : Host.Outcome State Fault Refusal :=
  if inRange s a 1 = false then .fault (.hostAddressOutOfRange a)
  else if writeViolates s a then .fault (.footprintViolation a)
  else .next (nextStmt { s with mem := s.mem.write a v })

/-- HOST reads a byte of the data memory (20_memory.md R100, R114). -/
def hostMemRead (a : Nat) (s : State) : Host.Outcome State Fault Refusal :=
  if inRange s a 1 = false then .fault (.hostAddressOutOfRange a)
  else if readViolates s a then .fault (.footprintViolation a)
  else .next (nextStmt { s with host := { s.host with rdata := (s.mem.read a).setWidth 32 } })

/-- `rd REG, =v`: a check that fails is recorded and the program goes on (30_encoding.md R138, log 17). -/
def hostCheck (v : Word) (s : State) : State :=
  { s with host := { s.host with checksOk := s.host.checksOk && s.host.rdata == v } }

/-- `jnz`: go to `target` if the value just read AND `mask` is not 0 (30_encoding.md R138). -/
def hostBranch (mask : Word) (target : Nat) (s : State) : State :=
  if s.host.rdata &&& mask ≠ 0 then gotoStmt target s else nextStmt s

/-- One statement of HOST. -/
def runStmt (st : HostStmt) (s : State) : Host.Outcome State Fault Refusal :=
  match st with
  | .wr off bytes v => .next (nextStmt (busWrite off bytes v s))
  | .rd off bytes => .next (nextStmt (hostRead off bytes s))
  | .rdCheck off v => .next (nextStmt (hostCheck v (hostRead off 4 s)))
  | .jnz off mask target => .next (hostBranch mask target (hostRead off 4 s))
  | .memWr a v => hostMemWrite a v s
  | .memRd a => hostMemRead a s
  | .takeIrq => if s.irq then .next (nextStmt (hostSees s)) else .next s
  | .reset => .next (nextStmt (assertReset s))

/-- HOST's turn; a finished program leaves the machine as it is (70_reset_and_hazards.md R422). -/
def hostStep (s : State) : Host.Outcome State Fault Refusal :=
  match s.host.prog[s.host.pc]? with
  | some st => runStmt st s
  | none => .next s

/-- CORE's turn while the word `c` runs: the whole command as one step (00_scope.md R3); an invalid word raises BADCMD
and does nothing else (30_encoding.md R131, R134). -/
def runWord (c : Word) (s : State) : Host.Outcome State Fault Refusal :=
  match decode c with
  | .ok i => exec i s
  | .error _ => .next (raiseErr (badcmdErr c) s)

/-- CORE's turn (log 2). -/
def coreStep (s : State) : Host.Outcome State Fault Refusal :=
  match s.phase with
  | .running c => runWord c s
  | .resetting => .next (finishReset s)
  | .idle => .next s

/-- The agent that moves next: HOST while CORE is idle, else the next entry of the schedule, CORE when it is used up
(log 3). -/
def nextAgent (s : State) : Agent :=
  match s.phase with
  | .idle => .host
  | .running _ => s.host.sched.headD .core
  | .resetting => s.host.sched.headD .core

/-- The schedule after this turn: an entry is used up only while CORE is busy. -/
def popSched (s : State) : State :=
  match s.phase with
  | .idle => s
  | .running _ => { s with host := { s.host with sched := s.host.sched.tail } }
  | .resetting => { s with host := { s.host with sched := s.host.sched.tail } }

/-- The command word `c` accepted and CORE to move next: where `step` finds its next command (log 5). -/
def withCommand (c : Word) (s : State) : State :=
  { accept c s with host := { (accept c s).host with sched := [] } }

end Sys2Proof.Machine
end

