-- ==== Sys2Proof/Machine/Step.lean ====
section
/-! DEFINITION. One step: one HOST statement, or one whole command of CORE (00_scope.md R2, R3). -/

namespace Sys2Proof.Machine

/-- One step of the machine. -/
def step (s : State) : Host.Outcome State Fault Refusal :=
  match nextAgent s with
  | .host => hostStep (popSched s)
  | .core => coreStep (popSched s)

/-- `s` with the word `w` (its low `nbits` bits) as the accepted command that the next step runs: what a HOST write to
CMD leaves (30_encoding.md R131; log 5). HUFFCORE fetches nothing (10_state.md R31). -/
def State.withFetchWord (s : State) (nbits w : Nat) : State := withCommand (BitVec.ofNat 32 (w % 2 ^ nbits)) s

end Sys2Proof.Machine
end

