-- ==== Sys2Proof/WellFormed.lean ====
section
/-! DEFINITION. Well-formedness. Every command is well-formed by its type (B is one bit, 30_encoding.md R133); the
checks below are about host programs (30_encoding.md R138, R139). -/

namespace Sys2Proof

/-- Every term of `Instr` is a command of the opcode map: its one operand has exactly the values of one bit. -/
def Instr.wf : Instr → Bool
  | .nop | .analyze | .buildtree | .buildtable | .compress | .decompress | .clear => true
  | .wopen | .wbit _ | .wclose | .ropen | .rbit | .rclose => true

/-- A resolved statement of a program of `n` statements is well-formed for a memory of `memSize` bytes: its register
access is an aligned 32-bit access inside the 4096-byte block (10_state.md R32, R33), its jump goes to a statement or
to the end, its byte exists (20_memory.md R100). An ill-formed one still has a meaning, or stops by name. -/
def HostStmt.wf (memSize n : Nat) : HostStmt → Bool
  | .wr off bytes _ => bytes == 4 && off % 4 == 0 && decide (off < 4096)
  | .rd off bytes => bytes == 4 && off % 4 == 0 && decide (off < 4096)
  | .rdCheck off _ => off % 4 == 0 && decide (off < 4096)
  | .jnz off _ target => off % 4 == 0 && decide (off < 4096) && decide (target ≤ n)
  | .memWr a _ => decide (a < memSize)
  | .memRd a => decide (a < memSize)
  | .takeIrq => true
  | .reset => true

/-- The labels a source program defines, in order. -/
def SrcLine.labels (p : List SrcLine) : List String := p.filterMap SrcLine.label

/-- A source line is well-formed in a program with these labels: a `jnz` names one of them, and `mem` places its
bytes inside the memory (30_encoding.md R138). -/
def SrcLine.wf (memSize : Nat) (labels : List String) (l : SrcLine) : Bool :=
  match l.stmt with
  | .jnz _ _ label => labels.contains label
  | .mem a bs => decide (a + bs.length ≤ memSize)
  | _ => true

/-- A source program is well-formed when no label is defined twice and every line is well-formed. -/
def SrcLine.progWf (memSize : Nat) (p : List SrcLine) : Bool :=
  decide (labels p).Nodup && p.all (SrcLine.wf memSize (labels p))

end Sys2Proof
end

