-- ==== Sys2Proof/Machine/HostProgram.lean ====
section
/-! DEFINITION. Host programs: the statements and pseudo-statements of 30_encoding.md R138 and R139, expanded and with
their labels resolved, and loaded into HOST. -/

namespace Sys2Proof.Machine

/-- `wr REG, v`: one aligned 32-bit write (30_encoding.md R138). -/
def wrReg (r : Reg) (v : Word) : HostStmt := .wr (offsetOf r) 4 v

/-- `rd REG`: one aligned 32-bit read (30_encoding.md R138). -/
def rdReg (r : Reg) : HostStmt := .rd (offsetOf r) 4

/-- `wait` at statement index `at_`: poll STATUS until BUSY = 0 (30_encoding.md R139). -/
def waitAt (at_ : Nat) : HostStmt := .jnz (offsetOf .status) 0x1#32 at_

/-- How many statements a source statement becomes (30_encoding.md R138, R139). -/
def SrcStmt.size : SrcStmt → Nat
  | .mem _ _ => 0
  | .wr _ _ | .rd _ | .rdCheck _ _ | .jnz _ _ _ | .cmd _ | .wait => 1
  | .run _ | .wr64SrcBits _ | .whist _ _ => 2
  | .rdcode _ _ => 3
  | .rdnode _ => 6

/-- The statements a source statement becomes when its first one has index `k`; none if it names a label that
`target` does not know (30_encoding.md R138, R139). `run` takes every command: for WBIT with B = 1, a form R139 does not
give, it is `cmd WBIT, 1` then `wait` (DESIGN CHOICE, log 25). -/
def expandStmt (target : String → Option Nat) (k : Nat) : SrcStmt → Option (List HostStmt)
  | .mem _ _ => some []
  | .wr r v => some [wrReg r v]
  | .rd r => some [rdReg r]
  | .rdCheck r v => some [.rdCheck (offsetOf r) v]
  | .jnz r mask label =>
    match target label with
    | some n => some [.jnz (offsetOf r) mask n]
    | none => none
  | .cmd i => some [wrReg .cmd (encode i)]
  | .wait => some [waitAt k]
  | .run i => some [wrReg .cmd (encode i), waitAt (k + 1)]
  | .wr64SrcBits v => some [wrReg .srcBitsLo (v.setWidth 32), wrReg .srcBitsHi ((v >>> 32).setWidth 32)]
  | .whist s v => some [wrReg .hsel s, wrReg .hdata v]
  | .rdcode s w => some [wrReg .csel s, wrReg .cwsel w, rdReg .cword]
  | .rdnode i =>
    some [wrReg .nsel i, rdReg .ninfo, rdReg .nleft, rdReg .nright, rdReg .nwgtLo, rdReg .nwgtHi]

/-- The statement index of the first line that carries `label`, the lines starting at index `k`. -/
def labelIndex (label : String) : List SrcLine → Nat → Option Nat
  | [], _ => none
  | l :: p, k => if l.label = some label then some k else labelIndex label p (k + SrcStmt.size l.stmt)

/-- The lines from index `k` on, expanded. -/
def expandLines (target : String → Option Nat) : List SrcLine → Nat → Option (List HostStmt)
  | [], _ => some []
  | l :: p, k =>
    match expandStmt target k l.stmt, expandLines target p (k + SrcStmt.size l.stmt) with
    | some xs, some ys => some (xs ++ ys)
    | _, _ => none

/-- A source program as resolved statements; none if a label is undefined or a line is ill-formed. -/
def assemble (memSize : Nat) (p : List SrcLine) : Option (List HostStmt) :=
  if SrcLine.progWf memSize p then expandLines (fun label => labelIndex label p 0) p 0 else none

/-- The bytes `bs` placed from `a` on. -/
def placeBytes : List Byte → Nat → Memory → Memory
  | [], _, m => m
  | b :: bs, a, m => placeBytes bs (a + 1) (m.write a b)

/-- The launch state of the `mem` lines: their bytes are in the data memory before the program runs (30_encoding.md
R138). Where two lines name one byte the later line holds: DESIGN CHOICE, R138 does not say which (log 24). -/
def launchMem (p : List SrcLine) (m : Memory) : Memory :=
  p.foldl
    (fun m l =>
      match l.stmt with
      | .mem a bs => placeBytes bs a m
      | _ => m)
    m

/-- HOST at the start of a program: its `mem` bytes placed, its first statement next (30_encoding.md R138). -/
def loadProgram (p : List SrcLine) (s : State) : Option State :=
  match assemble s.cfg.memSize p with
  | some stmts =>
    some { s with mem := launchMem p s.mem, host := { s.host with prog := stmts, pc := 0, checksOk := true } }
  | none => none

/-- The run of HOST's program has ended: HOST has run its last statement and BUSY = 0 (70_reset_and_hazards.md
R422). Where HOST stops while a command runs, CORE still completes it and the run ends then: DESIGN CHOICE, R422 says
nothing of the result of such a run (log 26). -/
def runEnded (s : State) : Bool := decide (s.host.prog.length ≤ s.host.pc) && !s.busy

end Sys2Proof.Machine
end

