-- ==== Sys2Proof/Safety.lean ====
section
/-! DEFINITION. The terms the claims are stated in: the invariants of the state, the shape of a tree, the bits of an
artifact, and the symbols an artifact stands for. Nothing here is used by the machine. -/

namespace Sys2Proof.Machine

/-! ## Invariants of the state -/

/-- The data memory is canonical and lists no byte that does not exist (20_memory.md R100). -/
abbrev MemInv (s : State) : Prop := Memory.wf s.mem ∧ Sparse.below s.cfg.memSize s.mem

/-- HIST is canonical, its indices are symbols, and the selectors fit their widths (10_state.md R56 to R58, R61). -/
abbrev HistInv (s : State) : Prop :=
  Sparse.wf (0 : Word) s.hist ∧ Sparse.below s.cfg.nsym s.hist ∧
  s.hsel.toNat < s.cfg.nsym ∧ s.csel.toNat < s.cfg.nsym ∧ s.nsel.toNat < 2 ^ s.cfg.nidxBits

/-- The error record: ERRCODE is NONE exactly when ERR = 0, and then ERR_ADDR and ERR_INFO are 0; DONE and ERR are 0
while BUSY = 1 (10_state.md R37, R38, R47; 70_reset_and_hazards.md R401, R410). -/
abbrev RecordInv (s : State) : Prop :=
  (s.err = false ↔ s.errcode = .none) ∧ (s.err = false → s.errAddr = 0 ∧ s.errInfo = 0) ∧
  (s.busy = true → s.done = false ∧ s.err = false)

/-- The writer's counters: WCNT of 0 to 8 bits are in WACC, an open writer holds 0 to 7 and has accepted
8*WBYTES + WCNT, no more bytes are written than there are, and a valid artifact has ceil(WBITS / 8) bytes
(10_state.md R41, R50, R65; 40_stream.md R164, R166). -/
abbrev WriterInv (s : State) : Prop :=
  s.wr.wcnt ≤ 8 ∧ s.wr.wacc.toNat < 2 ^ s.wr.wcnt ∧ s.wr.wbytes ≤ s.cfg.memSize ∧
  s.wr.wbits ≤ 8 * s.wr.wbytes + s.wr.wcnt ∧
  (s.wr.wopen = true → s.wr.wcnt < 8 ∧ s.wr.wbits = 8 * s.wr.wbytes + s.wr.wcnt ∧ s.wr.outValid = false) ∧
  (s.wr.outValid = true → s.wr.wcnt = 0 ∧ s.wr.wbytes = (s.wr.wbits + 7) / 8)

/-- The reader's counters fit 64 bits and it never passes its end (10_state.md R66); the decoder has written no more
than the memory holds (10_state.md R52). -/
abbrev ReaderInv (s : State) : Prop :=
  s.rd.rpos ≤ s.rd.rlen ∧ s.rd.rlen < 2 ^ 64 ∧ s.dstLen * s.cfg.sb ≤ s.cfg.memSize

/-! ## How a command leaves the machine -/

/-- BUSY = 0 and DONE = 1, everything else as in `s`: a normal end (60_exceptions.md R353). -/
abbrev endedOk (s : State) : State := { s with phase := .idle, done := true }

/-- BUSY = 0, DONE = 1 and an error record, everything else as in `s` (60_exceptions.md R352, R358). -/
abbrev endedErr (code : ErrCode) (addr info : Word) (s : State) : State :=
  { s with phase := .idle, done := true, err := true, errcode := code, errAddr := addr, errInfo := info }

/-- The reset state of 10_state.md R70 for these parameters, with the data memory, the model's counter and HOST as
they are in `s`. -/
abbrev resetState (p : Phase) (s : State) : State :=
  { State.reset with cfg := s.cfg, phase := p, mem := s.mem, freeCtr := s.freeCtr, host := s.host }

/-! ## Trees -/

/-- Node `i` is a child of node `k`. -/
abbrev childOf (m : Sparse Node) (k i : Nat) : Prop := (nodeAt m k).left = i ∨ (nodeAt m k).right = i

/-- A leaf with no children, a symbol of the alphabet and a 32-bit count above 0 (10_state.md R62, 42_tree.md R222). -/
abbrev LeafOk (c : Config) (x : Node) : Prop :=
  x.leaf = true ∧ x.sym < c.nsym ∧ 0 < x.w ∧ x.w < 2 ^ 32 ∧ x.left = 0 ∧ x.right = 0

/-- An internal node `k`: two different children of lower index, no symbol, the exact sum of their weights (42_tree.md
R224, R226 item 2; 10_state.md R62). -/
abbrev InternalOk (m : Sparse Node) (k : Nat) : Prop :=
  (nodeAt m k).leaf = false ∧ (nodeAt m k).sym = 0 ∧ (nodeAt m k).left < k ∧ (nodeAt m k).right < k ∧
  (nodeAt m k).left ≠ (nodeAt m k).right ∧
  (nodeAt m k).w = (nodeAt m (nodeAt m k).left).w + (nodeAt m (nodeAt m k).right).w

/-- The registers of 10_state.md R63's table. -/
abbrev TreeRegs (t : Tree) : Prop :=
  (t.kind = .empty → t.nsyms = 0 ∧ t.nnodes = 0 ∧ t.root = 0) ∧
  (t.kind = .degen → t.nsyms = 1 ∧ t.nnodes = 1 ∧ t.root = 0) ∧
  (t.kind = .normal → 2 ≤ t.nsyms ∧ t.nnodes = 2 * t.nsyms - 1 ∧ t.root = 2 * t.nsyms - 2)

/-- The tree invariants of 42_tree.md R226: leaves first, in ascending symbol order; then internal nodes; every node
but ROOT is the child of exactly one; every weight fits WGT_W bits (R224). -/
abbrev TreeShape (c : Config) (t : Tree) : Prop :=
  TreeRegs t ∧ t.nsyms ≤ c.nsym ∧
  (∀ i < t.nsyms, LeafOk c (nodeAt t.node i)) ∧
  (∀ j < t.nsyms, ∀ i < j, (nodeAt t.node i).sym < (nodeAt t.node j).sym) ∧
  (∀ k < t.nnodes, t.nsyms ≤ k → InternalOk t.node k) ∧
  (∀ k < t.nnodes, (nodeAt t.node k).w < 2 ^ c.wgtBits) ∧
  (∀ i < t.nnodes, i ≠ t.root →
    ((List.range t.nnodes).filter (fun k => decide (t.nsyms ≤ k ∧ childOf t.node k i))).length = 1) ∧
  (∀ k < t.nnodes, t.nsyms ≤ k → ¬ childOf t.node k t.root)

/-- The arena is canonical and inside its size (10_state.md R62), and holds a tree. -/
abbrev TreeInv (s : State) : Prop :=
  Sparse.wf Node.zero s.tree.node ∧ Sparse.below s.cfg.maxNodes s.tree.node ∧ TreeShape s.cfg s.tree

/-- The leaves are those of the FrequencyTable `h`: the symbols below `n` with a count, each with its count as
weight (42_tree.md R221, R226 item 4). -/
abbrev LeavesFrom (n : Nat) (h : Sparse Word) (t : Tree) : Prop :=
  (List.range t.nsyms).map (fun i => (nodeAt t.node i).sym)
      = (List.range n).filter (fun x => Sparse.get 0 h x ≠ 0) ∧
  ∀ i < t.nsyms, (nodeAt t.node i).w = (Sparse.get 0 h (nodeAt t.node i).sym).toNat

/-- Node `j` is in the priority collection just before node `k` is made: it exists and no earlier internal node has
taken it (42_tree.md R222). -/
abbrev inQueue (m : Sparse Node) (n k j : Nat) : Prop := j < k ∧ ∀ k' < k, n ≤ k' → ¬ childOf m k' j

/-- Every internal node was made by the greedy rule: its left child is the least of the collection by (weight,
index), its right child the least of the rest (42_tree.md R222, R223, R225). -/
abbrev GreedyMerges (t : Tree) : Prop :=
  ∀ k < t.nnodes, t.nsyms ≤ k →
    inQueue t.node t.nsyms k (nodeAt t.node k).left ∧ inQueue t.node t.nsyms k (nodeAt t.node k).right ∧
    keyLt t.node (nodeAt t.node k).left (nodeAt t.node k).right = true ∧
    ∀ j < k, inQueue t.node t.nsyms k j → j ≠ (nodeAt t.node k).left → j ≠ (nodeAt t.node k).right →
      keyLt t.node (nodeAt t.node k).right j = true

/-- The node a bit path leads to from node `p`, none if it goes on below a leaf (43_table.md R250). -/
def descend (m : Sparse Node) : Nat → List Bool → Option Nat
  | p, [] => some p
  | p, b :: bs =>
    if (nodeAt m p).leaf then none else descend m (if b then (nodeAt m p).right else (nodeAt m p).left) bs

/-! ## Code tables -/

/-- No code of the table is a prefix of another symbol's code (43_table.md R254 item 2). -/
abbrev PrefixFree (ct : Sparse (List Bool)) : Prop :=
  ∀ e ∈ ct, ∀ f ∈ ct, e.1 ≠ f.1 → e.2.isPrefixOf f.2 = false

/-- CT is canonical, its indices are symbols, no code is longer than MAXCODE, and it is prefix-free (10_state.md R64,
43_table.md R254). -/
abbrev TableInv (s : State) : Prop :=
  Sparse.wf ([] : List Bool) s.ct ∧ Sparse.below s.cfg.nsym s.ct ∧ (∀ e ∈ s.ct, e.2.length ≤ s.cfg.maxCode) ∧
  PrefixFree s.ct

/-- Everything at once. -/
abbrev Inv (s : State) : Prop :=
  MemInv s ∧ HistInv s ∧ RecordInv s ∧ WriterInv s ∧ ReaderInv s ∧ TreeInv s ∧ TableInv s

/-- The total length of the table's codes weighted by the counts `h` (43_table.md R254 item 4, 44_encode.md R274). -/
def codedLength (n : Nat) (h : Sparse Word) (code : Nat → List Bool) : Nat :=
  ((List.range n).map (fun x => (Sparse.get 0 h x).toNat * (code x).length)).sum

/-! ## Artifacts -/

/-- The `n` bits of the artifact at `base`, most-significant bit of each byte first (40_stream.md R160). -/
def artifactBits (m : Memory) (base n : Nat) : List Bool :=
  (List.range n).map (fun j => (m.read (base + j / 8)).getLsbD (7 - j % 8))

/-- The memory holds the artifact of the bits `x` at `base`, zero-padded (40_stream.md R160). -/
def HoldsArtifact (m : Memory) (base : Nat) (x : List Bool) : Prop :=
  ∀ k < (x.length + 7) / 8, ∀ t < 8, (m.read (base + k)).getLsbD (7 - t) = x.getD (8 * k + t) false

/-- WACC holds the WCNT bits of `x` that follow the WBYTES bytes written, newest in bit 0, and nothing above them
(10_state.md R65). -/
def HoldsPartial (x : List Bool) (w : Writer) : Prop :=
  w.wacc.toNat < 2 ^ w.wcnt ∧ ∀ t < w.wcnt, w.wacc.getLsbD (w.wcnt - 1 - t) = x.getD (8 * w.wbytes + t) false

/-- The bits COMPRESS writes for the first `n` input symbols: their codes, one after the other (44_encode.md R271). -/
def inputCode (s : State) (n : Nat) : List Bool := (List.range n).flatMap (fun i => s.codeAt (s.inSym i))

/-- The symbols the bits spell in a tree with root `r`, from position `p`: one each time a leaf is reached
(45_decode.md R302, R304). -/
def decodeBits (m : Sparse Node) (r : Nat) : Nat → List Bool → List Nat
  | _, [] => []
  | p, b :: bs =>
    let q := if b then (nodeAt m p).right else (nodeAt m p).left
    if (nodeAt m q).leaf then (nodeAt m q).sym :: decodeBits m r r bs else decodeBits m r q bs

/-- The symbols an artifact of these bits stands for in the tree `t` (45_decode.md R301, R306, R307). -/
def decodedSyms (t : Tree) (bits : List Bool) : List Nat :=
  match t.kind with
  | .empty => []
  | .degen => bits.map (fun _ => (nodeAt t.node t.root).sym)
  | .normal => decodeBits t.node t.root t.root bits

/-- The memory holds these symbols one after the other from `base` on, `sb` bytes each (20_memory.md R104). -/
def HoldsSyms (m : Memory) (base sb : Nat) (xs : List Nat) : Prop :=
  ∀ k < xs.length, m.readLE (base + k * sb) sb = xs.getD k 0

/-- The byte runs [a, a+n) and [b, b+k) have no byte in common. -/
abbrev Apart (a n b k : Nat) : Prop := a + n ≤ b ∨ b + k ≤ a

/-- Every byte outside [a, a+n) reads as before. -/
def SameOutside (m m' : Memory) (a n : Nat) : Prop := ∀ x, x < a ∨ a + n ≤ x → m'.read x = m.read x

/-- The `n` bytes from `a` on exist (20_memory.md R102); no byte at all needs no place. -/
abbrev FitsMem (s : State) (a n : Nat) : Prop := n = 0 ∨ a + n ≤ s.cfg.memSize

/-- How COMPRESS leaves memory and writer from `s` when it ends by an error that is no failed artifact write, the bits
`x` accepted: the writer is closed with OUT_VALID = 0; the padded artifact of `x` is in memory if its last byte exists;
if not, the full bytes are, and the writer keeps the rest (40_stream.md R167). -/
def FlushedOnError (s : State) (x : List Bool) (m : Memory) (w : Writer) : Prop :=
  w.wopen = false ∧ w.outValid = false ∧ w.wbase = s.outAddr ∧ w.wbits = x.length ∧
  SameOutside s.mem m s.outAddr.toNat w.wbytes ∧
  (FitsMem s s.outAddr.toNat ((x.length + 7) / 8) →
    w.wbytes = (x.length + 7) / 8 ∧ w.wcnt = 0 ∧ w.wacc = 0 ∧ HoldsArtifact m s.outAddr.toNat x) ∧
  (¬ FitsMem s s.outAddr.toNat ((x.length + 7) / 8) →
    w.wbytes = x.length / 8 ∧ w.wcnt = x.length % 8 ∧ HoldsPartial x w ∧
    HoldsArtifact m s.outAddr.toNat (x.take (8 * w.wbytes)))

/-- The bytes of the first `n` input symbols exist (20_memory.md R102, R104). -/
abbrev inputInRange (s : State) (n : Nat) : Prop := ∀ i < n, inRange s (s.inSymAddr i) s.cfg.sb = true

end Sys2Proof.Machine
end

