-- ==== Sys2Proof/Certificates/Slice0/Obligations.lean ====
section
/-! DEFINITION. The statements for the provers. -/

open Sys2Proof Sys2Proof.Machine

/-! ## Command words -/

/-- 30_encoding.md R132, R134: the 14 valid words decode to their commands, and four of the illegal
words of 95_test_vectors.md 2.1 to none. -/
def Obligations.TableWordsDecodeToTheirCommands : Prop :=
  decode 0x00000000#32 = .ok .nop ∧ decode 0x00000001#32 = .ok .analyze ∧ decode 0x00000002#32 = .ok .buildtree ∧
  decode 0x00000003#32 = .ok .buildtable ∧ decode 0x00000004#32 = .ok .compress ∧
  decode 0x00000005#32 = .ok .decompress ∧ decode 0x00000006#32 = .ok .clear ∧ decode 0x00000007#32 = .ok .wopen ∧
  decode 0x00000008#32 = .ok (.wbit false) ∧ decode 0x00000108#32 = .ok (.wbit true) ∧
  decode 0x00000009#32 = .ok .wclose ∧ decode 0x0000000A#32 = .ok .ropen ∧ decode 0x0000000B#32 = .ok .rbit ∧
  decode 0x0000000C#32 = .ok .rclose ∧
  decodeTableWord 32 0x0000000D = none ∧ decodeTableWord 32 0x00000010 = none ∧
  decodeTableWord 32 0x00000101 = none ∧ decodeTableWord 32 0x80000001 = none

/-- 30_encoding.md R132, R135: decoding the encoding of a command gives it back, and a word that decodes to a command
is that command's encoding: no two words stand for one command, and no bit of a word is dropped. -/
def Obligations.DecodeAndEncodeAgree : Prop :=
  (∀ i : Instr, i.wf = true → decode (encode i) = .ok i) ∧ (∀ (c : Word) (i : Instr), decode c = .ok i → encode i = c)

/-- 30_encoding.md R135: a word decodes to a command exactly when, under the command's mask, it is the command's
match; for WBIT bit 8 is B. The decoder is total: any other word is rejected. -/
def Obligations.DecoderFollowsMatchAndMask : Prop :=
  ∀ c : Word,
    (decode c = .ok .nop ↔ c &&& 0xFFFFFFFF#32 = 0x00000000#32) ∧
    (decode c = .ok .analyze ↔ c &&& 0xFFFFFFFF#32 = 0x00000001#32) ∧
    (decode c = .ok .buildtree ↔ c &&& 0xFFFFFFFF#32 = 0x00000002#32) ∧
    (decode c = .ok .buildtable ↔ c &&& 0xFFFFFFFF#32 = 0x00000003#32) ∧
    (decode c = .ok .compress ↔ c &&& 0xFFFFFFFF#32 = 0x00000004#32) ∧
    (decode c = .ok .decompress ↔ c &&& 0xFFFFFFFF#32 = 0x00000005#32) ∧
    (decode c = .ok .clear ↔ c &&& 0xFFFFFFFF#32 = 0x00000006#32) ∧
    (decode c = .ok .wopen ↔ c &&& 0xFFFFFFFF#32 = 0x00000007#32) ∧
    (∀ b, decode c = .ok (.wbit b) ↔ c &&& 0xFFFFFEFF#32 = 0x00000008#32 ∧ c.getLsbD 8 = b) ∧
    (decode c = .ok .wclose ↔ c &&& 0xFFFFFFFF#32 = 0x00000009#32) ∧
    (decode c = .ok .ropen ↔ c &&& 0xFFFFFFFF#32 = 0x0000000A#32) ∧
    (decode c = .ok .rbit ↔ c &&& 0xFFFFFFFF#32 = 0x0000000B#32) ∧
    (decode c = .ok .rclose ↔ c &&& 0xFFFFFFFF#32 = 0x0000000C#32) ∧
    ((∃ i, decode c = .ok i) ∨ (∃ e, decode c = .error e))

/-- 30_encoding.md R134: a word is a command exactly when Valid holds; an invalid word is accepted like any other and,
on CORE's turn, ends at once with BADCMD, ERR_ADDR = 0, ERR_INFO = the word, and changes nothing else (`popSched`
uses up the model's own schedule entry, log 3). -/
def Obligations.InvalidWordEndsWithBadcmd : Prop :=
  ∀ c : Word,
    ((∃ i, decode c = .ok i) ↔
      ((c.extractLsb' 0 4).toNat ≤ 0xC ∧ c.extractLsb' 4 4 = 0 ∧ c.extractLsb' 9 23 = 0 ∧
        (c.getLsbD 8 = false ∨ (c.extractLsb' 0 4).toNat = 0x8))) ∧
    (¬ Valid c →
      (∀ s : State, s.phase = .idle → (busWrite 0x010 4 c s).phase = .running c) ∧
      ∀ s : State, s.phase = .running c → nextAgent s = .core →
        step s = .next (endedErr .badcmd 0 c (popSched s)))

/-! ## Steps -/

/-- 30_encoding.md R131: a write of any word to CMD while BUSY = 0 is accepted: BUSY <- 1, DONE, ERR, ERRCODE,
ERR_ADDR, ERR_INFO <- 0, nothing else of HUFFCORE changes. The two HOST fields are the model's (log 8, 9). -/
def Obligations.CmdWriteWhileIdleIsAccepted : Prop :=
  ∀ (s : State) (c : Word), s.phase = .idle →
    busWrite 0x010 4 c s =
      { s with
        phase := .running c, done := false, err := false, errcode := .none, errAddr := 0, errInfo := 0
        host := { s.host with unseen := true, guard := wordFootprint c s ++ s.host.guard } }

/-- 00_scope.md R3, 30_encoding.md R131: on CORE's turn, an accepted word that decodes to the command i makes the step
exactly exec of i; so does the command that `withFetchWord` places (log 5). That one step is the whole command, and
that CORE moves when the schedule is used up, is the model's choice (log 2, 3). -/
def Obligations.StepRunsTheAcceptedCommand : Prop :=
  (∀ (s : State) (c : Word) (i : Instr), s.phase = .running c → decode c = .ok i → nextAgent s = .core →
    step s = exec i (popSched s)) ∧
  (∀ (s : State) (i : Instr),
    step (s.withFetchWord 32 (encode i).toNat) = exec i (s.withFetchWord 32 (encode i).toNat)) ∧
  (∀ s : State, s.phase ≠ .idle → s.host.sched = [] → nextAgent s = .core)

/-- 30_encoding.md R138: while CORE is idle a step is HOST's next statement, `wr`, `rd` and `jnz` as R138 says. That an
idle CORE gives HOST the turn is the model's interleaving (log 3), and that a finished program leaves the machine as it
is, is the model's choice (log 13). -/
def Obligations.IdleStepRunsTheNextHostStatement : Prop :=
  ∀ s : State, s.phase = .idle →
    (s.host.prog[s.host.pc]? = none → step s = .next s) ∧
    (∀ st, s.host.prog[s.host.pc]? = some st → step s = runStmt st s) ∧
    (∀ off n v, s.host.prog[s.host.pc]? = some (.wr off n v) →
      ∃ t, step s = .next t ∧ t.host.pc = (busWrite off n v s).host.pc + 1 ∧
        { t with host := { t.host with pc := s.host.pc } } = busWrite off n v s) ∧
    (∀ off n, s.host.prog[s.host.pc]? = some (.rd off n) →
      ∃ t, step s = .next t ∧ t.host.rdata = (busRead off n s).1 ∧ t.host.pc = s.host.pc + 1) ∧
    (∀ off mask target, s.host.prog[s.host.pc]? = some (.jnz off mask target) →
      ∃ t, step s = .next t ∧
        t.host.pc = if (busRead off 4 s).1 &&& mask ≠ 0 then target else s.host.pc + 1)

/-! ## The register block -/

/-- 10_state.md R32, R33: exactly the aligned 32-bit accesses at the 40 offsets reach a register, each its own; no
other access, of whatever width or offset, has an effect or reads anything but 0, and a write to a read-only register
has no effect and does not set OVR, whatever CORE is doing (that such a read is 0 during reset initialisation too, and
beyond offset 0xFFF, is the model's reading, log 16, 18). -/
def Obligations.OnlyAlignedWordAccessesReachRegisters : Prop :=
  (∀ (off n : Nat) (r : Reg), regOf off n = some r ↔ n = 4 ∧ off = offsetOf r) ∧
  (∀ (s : State) (off n : Nat) (v : Word), n ≠ 4 ∨ off % 4 ≠ 0 ∨ 0x0A0 ≤ off →
    busWrite off n v s = s ∧ busRead off n s = (0, s)) ∧
  (∀ (s : State) (off : Nat) (v : Word),
    off ∈ [0x000, 0x004, 0x008, 0x018, 0x01C, 0x02C, 0x030, 0x034, 0x038, 0x04C, 0x050, 0x054, 0x058, 0x05C, 0x060,
           0x064, 0x068, 0x06C, 0x080, 0x084, 0x08C, 0x090, 0x094, 0x098, 0x09C] →
    busWrite off 4 v s = s)

/-- 10_state.md R34, R35: ID, CONFIG and MEMSZ read their constants, and reading them changes nothing (outside reset
initialisation, where every read is unspecified, 70_reset_and_hazards.md R402). -/
def Obligations.IdentificationRegistersReadTheirConstants : Prop :=
  ∀ s : State, s.phase ≠ .resetting →
    busRead 0x000 4 s = (0x48554646#32, s) ∧
    (∃ w, busRead 0x004 4 s = (w, s) ∧ (w.extractLsb' 0 5).toNat = s.cfg.symBits ∧ w.extractLsb' 5 3 = 0 ∧
      (w.extractLsb' 8 8).toNat = 32 ∧ (w.extractLsb' 16 8).toNat = s.cfg.wgtBits ∧ (w.extractLsb' 24 8).toNat = 1 ∧
      (s.cfg.symW = .w8 → w = 0x01282008#32) ∧ (s.cfg.symW = .w16 → w = 0x01302010#32)) ∧
    (∃ w, busRead 0x008 4 s = (w, s) ∧ w.toNat = s.cfg.memSize - 1)

/-- 10_state.md R38, R40, R43, R47, R50, R52 to R55, 60_exceptions.md R350: what STATUS and the error, result, tree and
stream registers show while BUSY = 0. STATUS: TREE_KIND is 0, 1 or 2 by the tree's kind and never 3; ERRCODE is the number of the recorded code;
WOPEN, ROPEN and RHASMORE are the streams'; the other fields are DONE, ERR, OVR, OUT_VALID and DST_VALID; bits 31:15
and BUSY are 0. Once HOST has seen the last command end (log 8), ERR_ADDR and ERR_INFO read the record; OUT_BITS,
OUT_BYTES, DST_LEN and RPOS the low and high words of their counters; NSYMS, NNODES and ROOT the tree's; WSTATE the
partial byte and its bit count (0 to 8); RSTATE the last bit delivered; and the read changes nothing. -/
def Obligations.StatusShowsTheStateWhileIdle : Prop :=
  ∀ s : State, s.phase = .idle →
    (∃ w, (busRead 0x014 4 s).1 = w ∧
      w.getLsbD 0 = false ∧ w.getLsbD 1 = s.done ∧ w.getLsbD 2 = s.err ∧ w.getLsbD 3 = s.ovr ∧
      (w.extractLsb' 4 4).toNat =
        (match s.errcode with | .none => 0 | .bus => 1 | .absent => 2 | .badcmd => 3 | .stream => 4 | .eos => 5) ∧
      (w.extractLsb' 8 2).toNat = (match s.tree.kind with | .empty => 0 | .degen => 1 | .normal => 2) ∧
      w.extractLsb' 8 2 ≠ 3#2 ∧
      w.getLsbD 10 = s.wr.outValid ∧ w.getLsbD 11 = s.dstValid ∧ w.getLsbD 12 = s.wr.wopen ∧
      w.getLsbD 13 = s.rd.ropen ∧ w.getLsbD 14 = (s.rd.ropen && decide (s.rd.rpos < s.rd.rlen)) ∧
      w.extractLsb' 15 17 = 0) ∧
    (s.host.unseen = false →
      busRead 0x018 4 s = (s.errAddr, s) ∧ busRead 0x01C 4 s = (s.errInfo, s) ∧
      busRead 0x02C 4 s = (BitVec.ofNat 32 s.wr.wbits, s) ∧
      busRead 0x030 4 s = (BitVec.ofNat 32 (s.wr.wbits / 2 ^ 32), s) ∧
      busRead 0x034 4 s = (BitVec.ofNat 32 s.wr.wbytes, s) ∧
      busRead 0x038 4 s = (BitVec.ofNat 32 (s.wr.wbytes / 2 ^ 32), s) ∧
      busRead 0x04C 4 s = (BitVec.ofNat 32 s.dstLen, s) ∧
      busRead 0x050 4 s = (BitVec.ofNat 32 (s.dstLen / 2 ^ 32), s) ∧
      busRead 0x054 4 s = (BitVec.ofNat 32 s.tree.nsyms, s) ∧ busRead 0x058 4 s = (BitVec.ofNat 32 s.tree.nnodes, s) ∧
      busRead 0x05C 4 s = (BitVec.ofNat 32 s.tree.root, s) ∧
      (s.wr.wcnt ≤ 8 → ∃ w, busRead 0x060 4 s = (w, s) ∧
        w.extractLsb' 0 8 = s.wr.wacc ∧ (w.extractLsb' 8 4).toNat = s.wr.wcnt ∧ w.extractLsb' 12 20 = 0) ∧
      busRead 0x064 4 s = ((if s.rd.rdata then 1#32 else 0#32), s) ∧
      busRead 0x068 4 s = (BitVec.ofNat 32 s.rd.rpos, s) ∧
      busRead 0x06C 4 s = (BitVec.ofNat 32 (s.rd.rpos / 2 ^ 32), s))

/-- 70_reset_and_hazards.md R410: while a command runs, STATUS reads BUSY = 1, DONE, ERR and ERRCODE 0 and the
current OVR, whatever the free value is; CTRL, the configuration registers and the selectors read their values. That
STATUS bits 31:15 read 0 then is the model's reading (log 16), and that a read changes nothing but a counter of free
values is how the model supplies them (log 7). -/
def Obligations.ReadsWhileACommandRuns : Prop :=
  ∀ (s : State) (c : Word), s.phase = .running c → RecordInv s →
    (∃ w, (busRead 0x014 4 s).1 = w ∧ w.getLsbD 0 = true ∧ w.getLsbD 1 = false ∧ w.getLsbD 2 = false ∧
      w.getLsbD 3 = s.ovr ∧ w.extractLsb' 4 4 = 0 ∧ w.extractLsb' 15 17 = 0) ∧
    busRead 0x00C 4 s = ((if s.ie then 1#32 else 0#32), s) ∧
    busRead 0x020 4 s = (s.inAddr, s) ∧ busRead 0x024 4 s = (s.inLen, s) ∧ busRead 0x028 4 s = (s.outAddr, s) ∧
    busRead 0x03C 4 s = (s.srcAddr, s) ∧ busRead 0x040 4 s = (s.srcBits.extractLsb' 0 32, s) ∧
    busRead 0x044 4 s = (s.srcBits.extractLsb' 32 32, s) ∧ busRead 0x048 4 s = (s.dstAddr, s) ∧
    busRead 0x070 4 s = (s.hsel.setWidth 32, s) ∧ busRead 0x078 4 s = (s.csel.setWidth 32, s) ∧
    busRead 0x07C 4 s = (s.cwsel.setWidth 32, s) ∧ busRead 0x088 4 s = (s.nsel.setWidth 32, s) ∧
    (∀ off n, (busRead off n s).2 = s ∨ (busRead off n s).2 = { s with freeCtr := s.freeCtr + 1 })

/-- 70_reset_and_hazards.md R411: while a command runs, a write to CMD or to an RW register other than CTRL only sets
OVR; CTRL and STATUS writes take effect; writes to RO registers and reserved offsets have no effect. -/
def Obligations.WritesWhileACommandRunsAreDropped : Prop :=
  ∀ (s : State) (c : Word) (off : Nat) (v : Word), s.phase = .running c →
    (off ∈ [0x010, 0x020, 0x024, 0x028, 0x03C, 0x040, 0x044, 0x048, 0x070, 0x074, 0x078, 0x07C, 0x088] →
      busWrite off 4 v s = { s with ovr := true }) ∧
    busWrite 0x00C 4 v s = { s with ie := v.getLsbD 0 } ∧
    busWrite 0x014 4 v s =
      { s with
        done := if v.getLsbD 1 then false else s.done
        ovr := if v.getLsbD 3 then false else s.ovr } ∧
    (off ∉ [0x010, 0x020, 0x024, 0x028, 0x03C, 0x040, 0x044, 0x048, 0x070, 0x074, 0x078, 0x07C, 0x088, 0x00C, 0x014] →
      busWrite off 4 v s = s)

/-- 10_state.md R44: a STATUS write of v clears DONE if v[1] = 1 and OVR if v[3] = 1 and does nothing else, also while
a command runs; during reset initialisation it is ignored. -/
def Obligations.StatusWriteClearsDoneAndOvr : Prop :=
  ∀ (s : State) (v : Word),
    (s.phase ≠ .resetting →
      busWrite 0x014 4 v s =
        { s with
          done := if v.getLsbD 1 then false else s.done
          ovr := if v.getLsbD 3 then false else s.ovr }) ∧
    (s.phase = .resetting → busWrite 0x014 4 v s = s)

/-- 70_reset_and_hazards.md R402: during reset initialisation every HOST write of every width is ignored, OVR
included, STATUS reads BUSY = 1, and a read changes nothing but the model's counter of free values. -/
def Obligations.ResetInitialisationIgnoresEveryWrite : Prop :=
  ∀ s : State, s.phase = .resetting →
    (∀ off n v, busWrite off n v s = s) ∧ (busRead 0x014 4 s).1.getLsbD 0 = true ∧
    ∀ off n, (busRead off n s).2 = s ∨ (busRead off n s).2 = { s with freeCtr := s.freeCtr + 1 }

/-- 10_state.md R45, R46, R48, R49, R51, R52, R56 to R59: while BUSY = 0, a write to CTRL or to a configuration
register sets that register (its used bits) and nothing else, and the next read returns it; the two halves of SRC_BITS
are written separately. CTRL, every configuration register and every selector reads its value and CMD reads 0, and the
read changes nothing. -/
def Obligations.ConfigurationWritesReadBack : Prop :=
  ∀ (s : State) (v : Word), s.phase = .idle →
    busWrite 0x00C 4 v s = { s with ie := v.getLsbD 0 } ∧
    (busRead 0x00C 4 (busWrite 0x00C 4 v s)).1 = (if v.getLsbD 0 then 1#32 else 0#32) ∧
    busWrite 0x020 4 v s = { s with inAddr := v } ∧ (busRead 0x020 4 (busWrite 0x020 4 v s)).1 = v ∧
    busWrite 0x024 4 v s = { s with inLen := v } ∧ (busRead 0x024 4 (busWrite 0x024 4 v s)).1 = v ∧
    busWrite 0x028 4 v s = { s with outAddr := v } ∧ (busRead 0x028 4 (busWrite 0x028 4 v s)).1 = v ∧
    busWrite 0x03C 4 v s = { s with srcAddr := v } ∧ (busRead 0x03C 4 (busWrite 0x03C 4 v s)).1 = v ∧
    busWrite 0x040 4 v s = { s with srcBits := s.srcBits.extractLsb' 32 32 ++ v } ∧
    (busRead 0x040 4 (busWrite 0x040 4 v s)).1 = v ∧
    busWrite 0x044 4 v s = { s with srcBits := v ++ s.srcBits.extractLsb' 0 32 } ∧
    (busRead 0x044 4 (busWrite 0x044 4 v s)).1 = v ∧
    busWrite 0x048 4 v s = { s with dstAddr := v } ∧ (busRead 0x048 4 (busWrite 0x048 4 v s)).1 = v ∧
    busRead 0x00C 4 s = ((if s.ie then 1#32 else 0#32), s) ∧ busRead 0x010 4 s = (0#32, s) ∧
    busRead 0x020 4 s = (s.inAddr, s) ∧ busRead 0x024 4 s = (s.inLen, s) ∧ busRead 0x028 4 s = (s.outAddr, s) ∧
    busRead 0x03C 4 s = (s.srcAddr, s) ∧ busRead 0x040 4 s = (s.srcBits.extractLsb' 0 32, s) ∧
    busRead 0x044 4 s = (s.srcBits.extractLsb' 32 32, s) ∧ busRead 0x048 4 s = (s.dstAddr, s) ∧
    busRead 0x070 4 s = (s.hsel.setWidth 32, s) ∧ busRead 0x078 4 s = (s.csel.setWidth 32, s) ∧
    busRead 0x07C 4 s = (s.cwsel.setWidth 32, s) ∧ busRead 0x088 4 s = (s.nsel.setWidth 32, s)

/-- 10_state.md R56: HSEL keeps the low SYM_W bits; HDATA reads HIST[HSEL]; a write of v to HDATA sets HIST[HSEL] to v
and changes nothing else; HSEL is 0 at reset. `unseen` excludes a read before HOST has seen the last command end
(20_memory.md R113; log 8). -/
def Obligations.HistogramWindow : Prop :=
  State.reset.hsel = 0 ∧
  ∀ (s : State) (v : Word), s.phase = .idle → Sparse.wf (0 : Word) s.hist →
    (∃ h, busWrite 0x070 4 v s = { s with hsel := h } ∧ h.toNat = v.toNat % 2 ^ s.cfg.symBits) ∧
    (s.host.unseen = false → busRead 0x074 4 s = (s.histAt s.hsel.toNat, s)) ∧
    (∃ H, busWrite 0x074 4 v s = { s with hist := H } ∧ Sparse.get 0 H s.hsel.toNat = v ∧
      ∀ x, x ≠ s.hsel.toNat → Sparse.get 0 H x = s.histAt x)

/-- 10_state.md R57: CSEL keeps SYM_W bits and CWSEL 16; CLEN reads the code's length, and bit 31 - t of CWORD is code
bit 32*CWSEL + t, 0 beyond the code; no HOST write changes the code table; both selectors are 0 at reset. The reads are
those after HOST has seen the last command end (log 8). -/
def Obligations.CodeTableWindow : Prop :=
  State.reset.csel = 0 ∧ State.reset.cwsel = 0 ∧
  (∀ (s : State) (off n : Nat) (v : Word), (busWrite off n v s).ct = s.ct) ∧
  ∀ (s : State) (v : Word), s.phase = .idle →
    (∃ h, busWrite 0x078 4 v s = { s with csel := h } ∧ h.toNat = v.toNat % 2 ^ s.cfg.symBits) ∧
    (∃ h, busWrite 0x07C 4 v s = { s with cwsel := h } ∧ h.toNat = v.toNat % 2 ^ 16) ∧
    (s.host.unseen = false →
      busRead 0x080 4 s = (BitVec.ofNat 32 (s.codeAt s.csel.toNat).length, s) ∧
      ∃ w, busRead 0x084 4 s = (w, s) ∧
        ∀ t j, t < 32 → j = 32 * s.cwsel.toNat + t →
          w.getLsbD (31 - t) =
            if j < (s.codeAt s.csel.toNat).length then (s.codeAt s.csel.toNat).getD j false else false)

/-- 10_state.md R58: NSEL keeps NIDX_W bits; below NNODES the five node registers read the selected node's fields, at
NNODES and beyond they read 0; no HOST write changes the tree; NSEL is 0 at reset. The reads are those after HOST has
seen the last command end (log 8). -/
def Obligations.NodeWindow : Prop :=
  State.reset.nsel = 0 ∧
  (∀ (s : State) (off n : Nat) (v : Word), (busWrite off n v s).tree = s.tree) ∧
  ∀ (s : State) (v : Word), s.phase = .idle → TreeInv s →
    (∃ h, busWrite 0x088 4 v s = { s with nsel := h } ∧ h.toNat = v.toNat % 2 ^ s.cfg.nidxBits) ∧
    (s.host.unseen = false → s.nsel.toNat < s.tree.nnodes →
      ∃ x, x = s.nodeAt s.nsel.toNat ∧
        busRead 0x08C 4 s = ((if x.leaf then 0x80000000#32 else 0#32) ||| BitVec.ofNat 32 x.sym, s) ∧
        busRead 0x090 4 s = (BitVec.ofNat 32 x.left, s) ∧ busRead 0x094 4 s = (BitVec.ofNat 32 x.right, s) ∧
        (busRead 0x098 4 s).1.toNat = x.w % 2 ^ 32 ∧
        (busRead 0x09C 4 s).1.toNat = x.w / 2 ^ 32 ∧ x.w / 2 ^ 32 < 2 ^ (s.cfg.wgtBits - 32)) ∧
    (s.host.unseen = false → s.tree.nnodes ≤ s.nsel.toNat →
      ∀ off ∈ [0x08C, 0x090, 0x094, 0x098, 0x09C], busRead off 4 s = (0, s))

/-- 10_state.md R32, 93_implementation_defined.md I3: whatever a register reads, free values included, its bits beyond
its width used are 0. STATUS during reset initialisation is the exception (70_reset_and_hazards.md R402; log 7). -/
def Obligations.ReadsStayWithinTheUsedBits : Prop :=
  ∀ (s : State) (r : Reg), Inv s → (r = .status → s.phase ≠ .resetting) →
    (busRead (offsetOf r) 4 s).1 &&& ~~~ BitVec.ofNat 32 (usedBits s.cfg r) = 0

/-- 60_exceptions.md R360, R361: irq after any command is CTRL.IE; it is cleared by a STATUS write of bit 1, by
CTRL.IE <- 0, by accepting the next command and by reset; setting CTRL.IE while DONE = 1 asserts it at once. -/
def Obligations.IrqFollowsEnableAndDone : Prop :=
  (∀ (c : Word) (s t : State), runWord c s = .next t → t.irq = s.ie) ∧
  (∀ (s : State) (v : Word), s.phase = .idle →
    (v.getLsbD 1 = true → (busWrite 0x014 4 v s).irq = false) ∧
    (v.getLsbD 0 = false → (busWrite 0x00C 4 v s).irq = false) ∧
    (v.getLsbD 0 = true → (busWrite 0x00C 4 v s).irq = s.done) ∧
    (busWrite 0x010 4 v s).irq = false) ∧
  (∀ s : State, (assertReset s).irq = false ∧ (finishReset s).irq = false)

/-! ## HOST and the data memory -/

/-- 20_memory.md R113, R114, 70_reset_and_hazards.md R412: until HOST has seen BUSY = 0 it must not write a byte of a
command's footprint nor read a byte the command writes; the model stops on a violation (I9; log 9). A write of a byte
outside the footprint completes, and so does a read of every byte the command does not write, be it one it reads. A
STATUS read with BUSY = 0, or taking irq, ends the duty. -/
def Obligations.FootprintDutyOfHost : Prop :=
  ∀ (s : State) (a : Nat) (v : Byte), a < s.cfg.memSize → Memory.wf s.mem →
    ((∃ p ∈ s.host.guard, p.base ≤ a ∧ a < p.base + p.len) →
      runStmt (.memWr a v) s = .fault (.footprintViolation a)) ∧
    ((∃ p ∈ s.host.guard, p.dir = .write ∧ p.base ≤ a ∧ a < p.base + p.len) →
      runStmt (.memRd a) s = .fault (.footprintViolation a)) ∧
    ((∀ p ∈ s.host.guard, a < p.base ∨ p.base + p.len ≤ a) →
      ∃ t, runStmt (.memWr a v) s = .next t ∧ t.mem.read a = v ∧ ∀ x, x ≠ a → t.mem.read x = s.mem.read x) ∧
    ((∀ p ∈ s.host.guard, p.dir = .write → a < p.base ∨ p.base + p.len ≤ a) →
      ∃ t, runStmt (.memRd a) s = .next t ∧ t.host.rdata.toNat = (s.mem.read a).toNat ∧ t.mem = s.mem) ∧
    (s.phase = .idle → (busRead 0x014 4 s).2.host.guard = [] ∧ (busRead 0x014 4 s).2.host.unseen = false) ∧
    (s.irq = true → ∃ t, runStmt .takeIrq s = .next t ∧ t.host.guard = [] ∧ t.host.unseen = false)

/-! ## Reset -/

/-- 10_state.md R70: after reset every register reads 0 but ID, CONFIG and MEMSZ, and irq is 0 (in the reference
configuration, log 1). That an offset beyond 0xFFF reads 0 is the model's choice (log 18). -/
def Obligations.RegistersAfterReset : Prop :=
  State.reset.irq = false ∧
  ∀ off : Nat, (busRead off 4 State.reset).1 =
    if off = 0x000 then 0x48554646#32 else if off = 0x004 then 0x01282008#32
    else if off = 0x008 then 0x0000FFFF#32 else 0#32

/-- 70_reset_and_hazards.md R401: from the assertion of reset until reset initialisation ends BUSY = 1, whatever HOST
does meanwhile; when it ends every piece of state has its value of 10_state.md R70, BUSY = 0, DONE is not set, irq is 0,
and no data memory is touched. That CORE's one turn ends it, and the schedule that gives CORE the turn, are the model's
choice (log 3). -/
def Obligations.ResetInitialisationEndsInTheResetState : Prop :=
  (∀ s : State, (assertReset s).phase = .resetting) ∧
  ∀ s : State, s.phase = .resetting →
    s.busy = true ∧
    (∀ t, nextAgent s = .host → step s = .next t → t.phase = .resetting) ∧
    (nextAgent s = .core →
      step s = .next (resetState .idle (popSched s)) ∧ (resetState .idle (popSched s)).mem = s.mem ∧
      (resetState .idle (popSched s)).cfg = s.cfg ∧ (resetState .idle (popSched s)).busy = false ∧
      (resetState .idle (popSched s)).done = false ∧ (resetState .idle (popSched s)).irq = false)

/-- 70_reset_and_hazards.md R403: reset asserted while a command runs starts reset initialisation in the reset state;
each byte of the command's write footprint keeps its value or takes the one the command would have written, whatever
the free choice is (log 10); every other byte is unchanged. With no command running no byte changes. -/
def Obligations.ResetAbandonsTheRunningCommand : Prop :=
  ∀ s : State, Memory.wf s.mem →
    (∃ M, assertReset s =
      { State.reset with
        cfg := s.cfg, phase := .resetting, mem := M, freeCtr := s.freeCtr + 1
        host := { s.host with unseen := false } }) ∧
    (∀ c i, s.phase = .running c → decode c = .ok i → ∀ a,
      (assertReset s).mem.read a = s.mem.read a ∨
      ((∃ p ∈ footprint i s, p.dir = .write ∧ p.base ≤ a ∧ a < p.base + p.len) ∧
        ∃ t, exec i s = .next t ∧ (assertReset s).mem.read a = t.mem.read a)) ∧
    ((∀ c i, s.phase = .running c → decode c ≠ .ok i) → (assertReset s).mem = s.mem)

/-! ## NOP and CLEAR -/

/-- 46_control.md R330, R331: NOP only completes; CLEAR gives HIST, CT, the arena, the tree registers, both streams,
DSTLEN, OUT_VALID and DST_VALID their reset values, and keeps the data memory, CTRL, OVR, the configuration registers
and the selectors. -/
def Obligations.NopAndClearComplete : Prop :=
  ∀ s : State,
    encode .nop = 0x00000000#32 ∧ encode .clear = 0x00000006#32 ∧ exec .nop s = .next (endedOk s) ∧
    ∃ t, exec .clear s = .next t ∧
      (∀ x, t.histAt x = 0) ∧ (∀ x, t.codeAt x = []) ∧ (∀ i, t.nodeAt i = Node.zero) ∧
      t.tree.kind = .empty ∧ t.tree.nsyms = 0 ∧ t.tree.nnodes = 0 ∧ t.tree.root = 0 ∧
      t = { endedOk s with
        hist := t.hist, ct := t.ct, tree := t.tree
        wr := { wopen := false, wbase := 0, wacc := 0, wcnt := 0, wbits := 0, wbytes := 0, outValid := false }
        rd := { ropen := false, rbase := 0, rlen := 0, rpos := 0, rbyte := 0, rdata := false }
        dstLen := 0, dstValid := false }

/-! ## The stream commands -/

/-- 40_stream.md R170, R173, R177: WOPEN opens the writer at OUT_ADDR, ROPEN the reader on SRC_ADDR for SRC_BITS bits,
RCLOSE closes the reader and keeps its other state; each refuses with STREAM in the wrong state and changes nothing
else. -/
def Obligations.OpenAndCloseCommands : Prop :=
  ∀ s : State,
    encode .wopen = 0x00000007#32 ∧ encode .ropen = 0x0000000A#32 ∧ encode .rclose = 0x0000000C#32 ∧
    exec .wopen s =
      .next (if s.wr.wopen then endedErr .stream 0 0x7#32 s else
        endedOk { s with wr :=
          { wopen := true, wbase := s.outAddr, wacc := 0, wcnt := 0, wbits := 0, wbytes := 0, outValid := false } }) ∧
    exec .ropen s =
      .next (if s.rd.ropen then endedErr .stream 0 0xA#32 s else
        endedOk { s with rd :=
          { ropen := true, rbase := s.srcAddr, rlen := s.srcBits.toNat, rpos := 0, rbyte := 0, rdata := false } }) ∧
    exec .rclose s =
      .next (if s.rd.ropen then endedOk { s with rd := { s.rd with ropen := false } }
        else endedErr .stream 0 0xC#32 s)

/-- 40_stream.md R164, R165, R171: WBIT on an open writer appends its bit to the partial byte; the eighth bit writes
the byte at WBASE + WBYTES and no other, or, where that byte does not exist, raises BUS and releases the writer with
its counters kept. On a closed writer it raises STREAM. -/
def Obligations.WbitAppendsOneBit : Prop :=
  ∀ (s : State) (b : Bool) (acc : Byte), acc = BitVec.ofNat 8 (2 * s.wr.wacc.toNat + b.toNat) →
    encode (.wbit b) = (if b then 0x00000108#32 else 0x00000008#32) ∧
    (s.wr.wopen = false → exec (.wbit b) s = .next (endedErr .stream 0 0x8#32 s)) ∧
    (s.wr.wopen = true → s.wr.wcnt ≠ 7 →
      exec (.wbit b) s = .next (endedOk { s with wr :=
        { s.wr with wacc := acc, wcnt := s.wr.wcnt + 1, wbits := s.wr.wbits + 1 } })) ∧
    (s.wr.wopen = true → s.wr.wcnt = 7 → s.wr.wbase.toNat + s.wr.wbytes + 1 ≤ s.cfg.memSize → Memory.wf s.mem →
      ∃ M, exec (.wbit b) s = .next (endedOk { s with
          mem := M
          wr := { s.wr with wacc := 0, wcnt := 0, wbits := s.wr.wbits + 1, wbytes := s.wr.wbytes + 1 } }) ∧
        M.read (s.wr.wbase.toNat + s.wr.wbytes) = acc ∧
        ∀ a, a ≠ s.wr.wbase.toNat + s.wr.wbytes → M.read a = s.mem.read a) ∧
    (s.wr.wopen = true → s.wr.wcnt = 7 → s.cfg.memSize < s.wr.wbase.toNat + s.wr.wbytes + 1 →
      exec (.wbit b) s =
        .next (endedErr .bus (BitVec.ofNat 32 (s.wr.wbase.toNat + s.wr.wbytes)) 0x801#32 { s with wr :=
          { s.wr with wacc := acc, wcnt := 8, wbits := s.wr.wbits + 1, wopen := false, outValid := false } }))

/-- 40_stream.md R166, R172: WCLOSE with nothing pending closes without a memory access; with WCNT bits pending it
writes one byte, those bits at the top and zeros below, at WBASE + WBYTES, or raises BUS where that byte does not
exist. On a closed writer it raises STREAM: nothing is flushed twice. -/
def Obligations.WcloseFlushesExactlyOnce : Prop :=
  ∀ s : State,
    encode .wclose = 0x00000009#32 ∧
    (s.wr.wopen = false → exec .wclose s = .next (endedErr .stream 0 0x9#32 s)) ∧
    (s.wr.wopen = true → s.wr.wcnt = 0 →
      exec .wclose s = .next (endedOk { s with wr :=
        { s.wr with wacc := 0, wcnt := 0, wopen := false, outValid := true } })) ∧
    (s.wr.wopen = true → 0 < s.wr.wcnt → Memory.wf s.mem →
      s.wr.wbase.toNat + s.wr.wbytes + 1 ≤ s.cfg.memSize →
      ∃ M, exec .wclose s = .next (endedOk { s with
          mem := M
          wr := { s.wr with wacc := 0, wcnt := 0, wbytes := s.wr.wbytes + 1, wopen := false, outValid := true } }) ∧
        M.read (s.wr.wbase.toNat + s.wr.wbytes) = BitVec.ofNat 8 (s.wr.wacc.toNat * 2 ^ (8 - s.wr.wcnt)) ∧
        ∀ a, a ≠ s.wr.wbase.toNat + s.wr.wbytes → M.read a = s.mem.read a) ∧
    (s.wr.wopen = true → 0 < s.wr.wcnt → s.cfg.memSize < s.wr.wbase.toNat + s.wr.wbytes + 1 →
      exec .wclose s =
        .next (endedErr .bus (BitVec.ofNat 32 (s.wr.wbase.toNat + s.wr.wbytes)) 0x901#32 { s with wr :=
          { s.wr with wopen := false, outValid := false } }))

/-- 40_stream.md R169, R176: RBIT delivers bit 7 - (RPOS mod 8) of the current artifact byte, reading a new byte at a
byte boundary only; at the end it raises EOS and changes nothing else; a byte that does not exist raises BUS and
closes the reader; on a closed reader it raises STREAM. -/
def Obligations.RbitDeliversTheNextBit : Prop :=
  ∀ s : State,
    encode .rbit = 0x0000000B#32 ∧
    (s.rd.ropen = false → exec .rbit s = .next (endedErr .stream 0 0xB#32 s)) ∧
    (s.rd.ropen = true → s.rd.rlen ≤ s.rd.rpos → exec .rbit s = .next (endedErr .eos 0 0xB#32 s)) ∧
    (s.rd.ropen = true → s.rd.rpos < s.rd.rlen → s.rd.rpos % 8 ≠ 0 →
      exec .rbit s = .next (endedOk { s with rd :=
        { s.rd with rpos := s.rd.rpos + 1, rdata := s.rd.rbyte.getLsbD (7 - s.rd.rpos % 8) } })) ∧
    (s.rd.ropen = true → s.rd.rpos < s.rd.rlen → s.rd.rpos % 8 = 0 →
      s.rd.rbase.toNat + s.rd.rpos / 8 + 1 ≤ s.cfg.memSize →
      exec .rbit s = .next (endedOk { s with rd :=
        { s.rd with
          rpos := s.rd.rpos + 1
          rbyte := s.mem.read (s.rd.rbase.toNat + s.rd.rpos / 8)
          rdata := (s.mem.read (s.rd.rbase.toNat + s.rd.rpos / 8)).getLsbD 7 } })) ∧
    (s.rd.ropen = true → s.rd.rpos < s.rd.rlen → s.rd.rpos % 8 = 0 →
      s.cfg.memSize < s.rd.rbase.toNat + s.rd.rpos / 8 + 1 →
      exec .rbit s =
        .next (endedErr .bus (BitVec.ofNat 32 (s.rd.rbase.toNat + s.rd.rpos / 8)) 0xB00#32
          { s with rd := { s.rd with ropen := false } }))

/-- 44_encode.md R277, 45_decode.md R310: COMPRESS while HOST holds the writer, and DECOMPRESS while HOST holds the
reader, raise STREAM before any other effect. -/
def Obligations.HeldStreamsAreRefused : Prop :=
  ∀ s : State,
    (s.wr.wopen = true → exec .compress s = .next (endedErr .stream 0 0x4#32 s)) ∧
    (s.rd.ropen = true → exec .decompress s = .next (endedErr .stream 0 0x5#32 s))

/-! ## ANALYZE -/

/-- 41_histogram.md R201: when every input symbol exists, ANALYZE ends normally, HIST[x] is the number of input
symbols equal to x, the counts sum to IN_LEN, no count wraps, and nothing but HIST changes. -/
def Obligations.AnalyzeCountsTheInput : Prop :=
  ∀ s : State, inputInRange s s.inCount →
    ∃ H, exec .analyze s = .next (endedOk { s with hist := H }) ∧ Sparse.wf (0 : Word) H ∧
      (∀ x, (Sparse.get 0 H x).toNat = ((List.range s.inCount).filter (fun i => decide (s.inSym i = x))).length) ∧
      ((List.range s.cfg.nsym).map (fun x => (Sparse.get 0 H x).toNat)).sum = s.inCount ∧
      s.inCount ≤ 2 ^ 32 - 1

/-- 41_histogram.md R204: when input symbol k is the first that does not exist, ANALYZE raises BUS at its address with
ERR_INFO 0x100, HIST holds the counts of symbols 0 to k-1 only, and nothing else changes. -/
def Obligations.AnalyzeStopsAtTheFirstMissingSymbol : Prop :=
  ∀ (s : State) (k : Nat), k < s.inCount → inputInRange s k → inRange s (s.inSymAddr k) s.cfg.sb = false →
    ∃ H, exec .analyze s =
        .next (endedErr .bus (BitVec.ofNat 32 (s.inAddr.toNat + k * s.cfg.sb)) 0x100#32 { s with hist := H }) ∧
      ∀ x, (Sparse.get 0 H x).toNat = ((List.range k).filter (fun i => decide (s.inSym i = x))).length

/-! ## BUILDTREE -/

/-- 42_tree.md R222: with no present symbol BUILDTREE makes the empty-tree sentinel and writes no node; with one it
makes the one-leaf tree in node 0; in both nothing but the tree changes. -/
def Obligations.BuildtreeOfAtMostOneSymbol : Prop :=
  ∀ s : State,
    ((∀ x < s.cfg.nsym, s.histAt x = 0) →
      exec .buildtree s = .next (endedOk { s with tree :=
        { kind := .empty, root := 0, nnodes := 0, nsyms := 0, node := s.tree.node } })) ∧
    (∀ x < s.cfg.nsym, s.histAt x ≠ 0 → (∀ y < s.cfg.nsym, y ≠ x → s.histAt y = 0) →
      Sparse.wf Node.zero s.tree.node →
      ∃ N, exec .buildtree s = .next (endedOk { s with tree :=
          { kind := .degen, root := 0, nnodes := 1, nsyms := 1, node := N } }) ∧
        nodeAt N 0 = { leaf := true, sym := x, w := (s.histAt x).toNat, left := 0, right := 0 } ∧
        ∀ i, i ≠ 0 → nodeAt N i = s.nodeAt i)

/-- 42_tree.md R221 to R226, R230: with two present symbols or more BUILDTREE makes a NORMAL tree over exactly those
symbols, seeded in ascending order, every merge taking the two least nodes by (weight, index), the first popped as left
child, with all the tree invariants; entries at NNODES and beyond keep what was there, and nothing but the tree
changes. -/
def Obligations.BuildtreeMakesTheGreedyTree : Prop :=
  ∀ s : State, Sparse.wf Node.zero s.tree.node → Sparse.below s.cfg.maxNodes s.tree.node →
    2 ≤ ((List.range s.cfg.nsym).filter (fun x => s.histAt x ≠ 0)).length →
    ∃ T, exec .buildtree s = .next (endedOk { s with tree := T }) ∧
      T.kind = .normal ∧ T.nsyms = ((List.range s.cfg.nsym).filter (fun x => s.histAt x ≠ 0)).length ∧
      TreeShape s.cfg T ∧ LeavesFrom s.cfg.nsym s.hist T ∧ GreedyMerges T ∧
      (∀ i, T.nnodes ≤ i → nodeAt T.node i = s.nodeAt i)

/-- 42_tree.md R228: two BUILDTREEs from equal HIST contents give equal NODE[0 .. NNODES-1], TREE_KIND, ROOT, NNODES
and NSYMS, whatever else differs. -/
def Obligations.BuildtreeIsAFunctionOfHist : Prop :=
  ∀ s s' : State, s.cfg.symW = s'.cfg.symW → (∀ x < s.cfg.nsym, s.histAt x = s'.histAt x) →
    Sparse.wf Node.zero s.tree.node → Sparse.wf Node.zero s'.tree.node →
    ∃ t t', exec .buildtree s = .next t ∧ exec .buildtree s' = .next t' ∧
      t.tree.kind = t'.tree.kind ∧ t.tree.root = t'.tree.root ∧ t.tree.nnodes = t'.tree.nnodes ∧
      t.tree.nsyms = t'.tree.nsyms ∧ ∀ i < t.tree.nnodes, t.nodeAt i = t'.nodeAt i

/-- 42_tree.md R223: PopMin takes one node out of the collection and leaves the others; the one it takes has the least
(weight, index) key. -/
def Obligations.PopMinTakesTheLeastKey : Prop :=
  ∀ (m : Sparse Node) (q : List Nat), q ≠ [] → q.Nodup →
    ∃ i r, popMin m q = some (i, r) ∧ List.Perm (i :: r) q ∧
      ∀ j ∈ r, (nodeAt m i).w < (nodeAt m j).w ∨ ((nodeAt m i).w = (nodeAt m j).w ∧ i < j)

/-! ## BUILDTABLE -/

/-- 43_table.md R252, R253: the table of a one-leaf tree is the one code "1" for its symbol, the table of the empty
tree is empty; nothing but the table changes. -/
def Obligations.BuildtableOfAtMostOneSymbol : Prop :=
  ∀ s : State,
    (s.tree.kind = .degen → ∃ C, exec .buildtable s = .next (endedOk { s with ct := C }) ∧
      ∀ x, Sparse.get [] C x = if x = (s.nodeAt s.tree.root).sym then [true] else []) ∧
    (s.tree.kind = .empty → ∃ C, exec .buildtable s = .next (endedOk { s with ct := C }) ∧
      ∀ x, (Sparse.get [] C x).length = 0)

/-- 43_table.md R250, R251: in a NORMAL tree the code of a symbol is the path from ROOT to its leaf, 0 for left and 1
for right, the branch at ROOT first; symbols that are no leaf's have no code; nothing but the table changes. -/
def Obligations.BuildtableRecordsTheLeafPaths : Prop :=
  ∀ s : State, TreeInv s → s.tree.kind = .normal →
    ∃ C, exec .buildtable s = .next (endedOk { s with ct := C }) ∧
      ∀ (x : Nat) (path : List Bool), path ≠ [] →
        (Sparse.get [] C x = path ↔
          ∃ i < s.tree.nsyms, (s.nodeAt i).sym = x ∧ descend s.tree.node s.tree.root path = some i)

/-- 43_table.md R254 items 1 to 3, 42_tree.md R226 item 5: the codes of a NORMAL tree are prefix-free and complete:
exactly the leaves' symbols have one, of 1 to n - 1 bits, and the sum of 2^(-len) is 1. -/
def Obligations.CodesArePrefixFreeAndComplete : Prop :=
  ∀ s : State, TreeInv s → s.tree.kind = .normal →
    ∃ t, exec .buildtable s = .next t ∧
      (∀ x, t.codeAt x ≠ [] ↔ ∃ i < s.tree.nsyms, (s.nodeAt i).sym = x) ∧
      (∀ i < s.tree.nsyms, (t.codeAt (s.nodeAt i).sym).length ≤ s.tree.nsyms - 1) ∧
      (∀ x y, x ≠ y → t.codeAt x ≠ [] → (t.codeAt x).isPrefixOf (t.codeAt y) = false) ∧
      ((List.range s.tree.nsyms).map
        (fun i => 2 ^ (s.cfg.maxCode - (t.codeAt (s.nodeAt i).sym).length))).sum = 2 ^ s.cfg.maxCode

/-- 42_tree.md R227, 43_table.md R254 item 4: no prefix-free code over the present symbols has a smaller total length
over the counts than the table of BUILDTREE and BUILDTABLE. -/
def Obligations.HuffmanCodesAreOptimal : Prop :=
  ∀ (s t u : State) (code : Nat → List Bool), Sparse.wf Node.zero s.tree.node →
    exec .buildtree s = .next t → t.tree.kind = .normal → exec .buildtable t = .next u →
    (∀ x < s.cfg.nsym, ∀ y < s.cfg.nsym, s.histAt x ≠ 0 → s.histAt y ≠ 0 → x ≠ y →
      (code x).isPrefixOf (code y) = false) →
    codedLength s.cfg.nsym s.hist u.codeAt ≤ codedLength s.cfg.nsym s.hist code

/-! ## COMPRESS -/

/-- 44_encode.md R271, R274, 40_stream.md R160: when every input symbol exists and has a code, and the artifact fits
and does not overlap the input, COMPRESS ends normally with the artifact of the concatenated codes at OUT_ADDR,
OUT_BITS the sum of the code lengths, OUT_BYTES = ceil(OUT_BITS / 8), OUT_VALID = 1; every other byte and every other
register is unchanged. An empty input is the case of no bits (R273). -/
def Obligations.CompressWritesTheArtifact : Prop :=
  ∀ (s : State) (x : List Bool), Memory.wf s.mem → s.wr.wopen = false → x = inputCode s s.inCount →
    inputInRange s s.inCount → (∀ i < s.inCount, s.codeAt (s.inSym i) ≠ []) →
    FitsMem s s.outAddr.toNat ((x.length + 7) / 8) →
    Apart s.inAddr.toNat (s.inCount * s.cfg.sb) s.outAddr.toNat ((x.length + 7) / 8) →
    ∃ M, exec .compress s = .next (endedOk { s with
        mem := M
        wr := { wopen := false, wbase := s.outAddr, wacc := 0, wcnt := 0, wbits := x.length,
                wbytes := (x.length + 7) / 8, outValid := true } }) ∧
      x.length = ((List.range s.inCount).map (fun i => (s.codeAt (s.inSym i)).length)).sum ∧
      HoldsArtifact M s.outAddr.toNat x ∧ SameOutside s.mem M s.outAddr.toNat ((x.length + 7) / 8)

/-- 44_encode.md R272, 40_stream.md R167, 60_exceptions.md R351: when input symbol k is the first without a code,
COMPRESS raises ABSENT with the symbol's address and value; the bits of symbols 0 to k-1 are in the artifact, padded
and flushed if the flush byte exists and left in the writer if not; the writer is closed and OUT_VALID is 0. -/
def Obligations.CompressReportsAnAbsentSymbol : Prop :=
  ∀ (s : State) (k : Nat) (x : List Bool), Memory.wf s.mem → s.wr.wopen = false → k < s.inCount →
    x = inputCode s k → inputInRange s (k + 1) → (∀ i < k, s.codeAt (s.inSym i) ≠ []) →
    s.codeAt (s.inSym k) = [] → FitsMem s s.outAddr.toNat (x.length / 8) →
    Apart s.inAddr.toNat ((k + 1) * s.cfg.sb) s.outAddr.toNat ((x.length + 7) / 8) →
    ∃ M W, exec .compress s =
        .next (endedErr .absent (BitVec.ofNat 32 (s.inAddr.toNat + k * s.cfg.sb)) (BitVec.ofNat 32 (s.inSym k))
          { s with mem := M, wr := W }) ∧
      FlushedOnError s x M W

/-- 44_encode.md R276, 40_stream.md R165, R167: a failed read of input symbol k closes the writer as an absent symbol
does, with the flush if the flush byte exists and without it if not, and raises BUS with the symbol's address and
ERR_INFO 0x400. A failed artifact write, of a full byte among the bits of the first n symbols or of the last partial
byte, closes the writer without a further write and raises BUS with the address of the byte that does not exist and
ERR_INFO 0x401; WBITS, WBYTES, WCNT and WACC keep the values they had: the bits accepted, the bytes written, and the
bits of the byte that failed (8 of them for a full byte). OUT_VALID is 0 in both. -/
def Obligations.CompressOnABusError : Prop :=
  (∀ (s : State) (k : Nat) (x : List Bool), Memory.wf s.mem → s.wr.wopen = false → k < s.inCount →
    x = inputCode s k → inputInRange s k → inRange s (s.inSymAddr k) s.cfg.sb = false →
    (∀ i < k, s.codeAt (s.inSym i) ≠ []) → FitsMem s s.outAddr.toNat (x.length / 8) →
    Apart s.inAddr.toNat (k * s.cfg.sb) s.outAddr.toNat ((x.length + 7) / 8) →
    ∃ M W, exec .compress s =
        .next (endedErr .bus (BitVec.ofNat 32 (s.inAddr.toNat + k * s.cfg.sb)) 0x400#32 { s with mem := M, wr := W }) ∧
      FlushedOnError s x M W) ∧
  (∀ (s : State) (n : Nat) (x : List Bool), Memory.wf s.mem → s.wr.wopen = false → n ≤ s.inCount →
    x = inputCode s n → inputInRange s n → (∀ i < n, s.codeAt (s.inSym i) ≠ []) →
    (¬ FitsMem s s.outAddr.toNat (x.length / 8) ∨
      n = s.inCount ∧ ¬ FitsMem s s.outAddr.toNat ((x.length + 7) / 8)) →
    Apart s.inAddr.toNat (n * s.cfg.sb) s.outAddr.toNat (s.cfg.memSize - s.outAddr.toNat) →
    ∃ M W, exec .compress s =
        .next (endedErr .bus (BitVec.ofNat 32 (s.outAddr.toNat + W.wbytes)) 0x401#32 { s with mem := M, wr := W }) ∧
      W.wopen = false ∧ W.outValid = false ∧ W.wbase = s.outAddr ∧ W.wbytes = s.cfg.memSize - s.outAddr.toNat ∧
      W.wbits = min x.length (8 * W.wbytes + 8) ∧ W.wcnt = W.wbits - 8 * W.wbytes ∧ HoldsPartial x W ∧
      HoldsArtifact M s.outAddr.toNat (x.take (8 * W.wbytes)) ∧ SameOutside s.mem M s.outAddr.toNat W.wbytes)

/-- 44_encode.md R271, R276, 20_memory.md R111, R120: whatever the regions, overlapping ones included, COMPRESS on a
free writer completes with the writer closed at OUT_ADDR, changes no byte outside OUT_ADDR .. OUT_ADDR + WBYTES - 1 and
no state but the writer and the error record, and OUT_VALID says whether it ended without an error. -/
def Obligations.CompressChangesOnlyItsArtifact : Prop :=
  ∀ s : State, s.wr.wopen = false → s.err = false → s.errcode = .none →
    ∃ t, exec .compress s = .next t ∧
      t = { s with
        phase := .idle, done := true, err := t.err, errcode := t.errcode, errAddr := t.errAddr, errInfo := t.errInfo
        mem := t.mem, wr := t.wr } ∧
      t.wr.wopen = false ∧ t.wr.wbase = s.outAddr ∧ SameOutside s.mem t.mem s.outAddr.toNat t.wr.wbytes ∧
      (t.err = true → t.errcode = .bus ∨ t.errcode = .absent) ∧
      (t.err = false → t.wr.wcnt = 0 ∧ t.wr.wbytes = (t.wr.wbits + 7) / 8) ∧
      t.wr.outValid = !t.err

/-! ## DECOMPRESS -/

/-- 45_decode.md R307: with the empty tree DECOMPRESS reads and writes nothing and ends normally with DSTLEN = 0 and
DST_VALID = 1, whatever SRC_ADDR and SRC_BITS hold; the reader is unchanged. -/
def Obligations.DecompressOfTheEmptyTree : Prop :=
  ∀ s : State, s.rd.ropen = false → s.tree.kind = .empty →
    exec .decompress s = .next (endedOk { s with dstLen := 0, dstValid := true })

/-- 45_decode.md R301, R302, R304, R306: when the artifact's bytes exist, and the output fits and does not overlap the
artifact, DECOMPRESS with a NORMAL or one-leaf tree ends normally with the symbols the bits spell at DST_ADDR, DSTLEN
their number, all SRC_BITS bits consumed and the reader closed; every other byte and register is unchanged. Emitting
as each leaf is reached is the same as emitting at the next bit and at the end. -/
def Obligations.DecompressWritesTheSpelledSymbols : Prop :=
  ∀ (s : State) (n : Nat) (out : List Nat), Memory.wf s.mem → TreeInv s → s.tree.kind ≠ .empty →
    s.rd.ropen = false → n = s.srcBits.toNat → out = decodedSyms s.tree (artifactBits s.mem s.srcAddr.toNat n) →
    FitsMem s s.srcAddr.toNat ((n + 7) / 8) → FitsMem s s.dstAddr.toNat (out.length * s.cfg.sb) →
    Apart s.srcAddr.toNat ((n + 7) / 8) s.dstAddr.toNat (out.length * s.cfg.sb) →
    ∃ M, exec .decompress s = .next (endedOk { s with
        mem := M
        rd := { ropen := false, rbase := s.srcAddr, rlen := n, rpos := n,
                rbyte := if n = 0 then 0 else s.mem.read (s.srcAddr.toNat + (n - 1) / 8), rdata := false }
        dstLen := out.length, dstValid := true }) ∧
      (s.tree.kind = .degen → out = List.replicate n (s.nodeAt s.tree.root).sym) ∧
      HoldsSyms M s.dstAddr.toNat s.cfg.sb out ∧ SameOutside s.mem M s.dstAddr.toNat (out.length * s.cfg.sb)

/-- 45_decode.md R301, R303, R309, 20_memory.md R111: whatever the regions, DECOMPRESS with a free reader and a tree
completes with the reader closed, has emitted at most one symbol per bit, changes no byte outside DST_ADDR ..
DST_ADDR + DSTLEN*SB - 1 and no state but the reader, DSTLEN, DST_VALID and the error record; DST_VALID says whether it
ended without an error; the only error is BUS, on the read of the byte at RBASE + RPOS div 8 or on the write of symbol
DSTLEN, that byte or symbol not existing. A one-leaf tree that ends normally gives SRC_BITS symbols. -/
def Obligations.DecompressFrameAndBusErrors : Prop :=
  ∀ s : State, s.rd.ropen = false → s.err = false → s.errcode = .none → TreeInv s → s.tree.kind ≠ .empty →
    ∃ t, exec .decompress s = .next t ∧
      t = { s with
        phase := .idle, done := true, err := t.err, errcode := t.errcode, errAddr := t.errAddr, errInfo := t.errInfo
        mem := t.mem, rd := t.rd, dstLen := t.dstLen, dstValid := t.dstValid } ∧
      t.rd.ropen = false ∧ t.rd.rbase = s.srcAddr ∧ t.rd.rlen = s.srcBits.toNat ∧
      t.dstLen ≤ s.srcBits.toNat ∧ SameOutside s.mem t.mem s.dstAddr.toNat (t.dstLen * s.cfg.sb) ∧
      t.dstValid = !t.err ∧
      (t.err = false → s.tree.kind = .degen → t.dstLen = s.srcBits.toNat) ∧
      (t.err = true → t.errcode = .bus ∧
        ((t.errInfo = 0x500#32 ∧ t.errAddr = BitVec.ofNat 32 (s.srcAddr.toNat + t.rd.rpos / 8) ∧
            s.cfg.memSize < s.srcAddr.toNat + t.rd.rpos / 8 + 1) ∨
         (t.errInfo = 0x501#32 ∧ t.errAddr = BitVec.ofNat 32 (s.dstAddr.toNat + t.dstLen * s.cfg.sb) ∧
            s.cfg.memSize < s.dstAddr.toNat + t.dstLen * s.cfg.sb + s.cfg.sb)))

/-- 45_decode.md R305, 40_stream.md R161: in a NORMAL tree, code words followed by p padding zeros spell the symbols
and then floor(p / L0) copies of the symbol whose code is L0 zeros; with no padding, exactly the symbols. -/
def Obligations.PaddingSpellsExtraSymbols : Prop :=
  ∀ (s t : State) (xs : List Nat) (p l0 x0 : Nat), TreeInv s → s.tree.kind = .normal →
    exec .buildtable s = .next t → (∀ x ∈ xs, t.codeAt x ≠ []) → t.codeAt x0 = List.replicate l0 false → l0 ≠ 0 →
    decodedSyms s.tree (xs.flatMap t.codeAt ++ List.replicate p false) = xs ++ List.replicate (p / l0) x0 ∧
    decodedSyms s.tree (xs.flatMap t.codeAt) = xs

/-- 45_decode.md R308, 70_reset_and_hazards.md R413 item 5: ANALYZE, BUILDTREE, BUILDTABLE and COMPRESS of an input,
then DECOMPRESS of the artifact with its exact bit length, give the input back, when the artifact overlaps neither the
input nor the output region and the output region exists. Whatever the input: empty, of one symbol, or of many. -/
def Obligations.CompressThenDecompressGivesTheInput : Prop :=
  ∀ (s s1 s2 s3 s4 : State) (d : Word), Memory.wf s.mem → Sparse.wf Node.zero s.tree.node →
    s.err = false → s.rd.ropen = false →
    exec .analyze s = .next s1 → s1.err = false → exec .buildtree s1 = .next s2 → exec .buildtable s2 = .next s3 →
    exec .compress s3 = .next s4 → s4.err = false →
    Apart s.inAddr.toNat (s.inCount * s.cfg.sb) s.outAddr.toNat s4.wr.wbytes →
    Apart d.toNat (s.inCount * s.cfg.sb) s.outAddr.toNat s4.wr.wbytes →
    FitsMem s d.toNat (s.inCount * s.cfg.sb) →
    ∃ t, exec .decompress
        { s4 with srcAddr := s.outAddr, srcBits := BitVec.ofNat 64 s4.wr.wbits, dstAddr := d } = .next t ∧
      t.err = false ∧ t.dstValid = true ∧ t.dstLen = s.inCount ∧
      ∀ i < s.inCount, t.mem.readLE (d.toNat + i * s.cfg.sb) s.cfg.sb = s.inSym i

/-! ## Rules of the whole machine -/

/-- 60_exceptions.md R353, R360: every accepted word, valid or not, completes in CORE's one step: BUSY = 0, DONE = 1,
irq is CTRL.IE, and the next CMD write is accepted. One step per command is the model's choice (log 2). -/
def Obligations.EveryAcceptedWordCompletes : Prop :=
  ∀ (c : Word) (s : State), s.phase = .running c → nextAgent s = .core →
    ∃ t, step s = .next t ∧ t.phase = .idle ∧ t.done = true ∧ t.irq = t.ie ∧
      ∀ c', (busWrite 0x010 4 c' t).phase = .running c'

/-- 30_encoding.md R137, 10_state.md R48 to R59, R63, R64: no command changes the parameters, CTRL, OVR, the
configuration registers, the selectors or HOST; HIST changes only in ANALYZE and CLEAR, the tree only in BUILDTREE and
CLEAR, the code table only in BUILDTABLE and CLEAR, the writer only in COMPRESS, WOPEN, WBIT, WCLOSE and CLEAR, the
reader only in DECOMPRESS, ROPEN, RBIT, RCLOSE and CLEAR, DSTLEN and DST_VALID only in DECOMPRESS and CLEAR, and the
data memory only in COMPRESS, DECOMPRESS, WBIT and WCLOSE. -/
def Obligations.EachCommandWritesOnlyItsOwnState : Prop :=
  ∀ (i : Instr) (s t : State), exec i s = .next t →
    t = { t with
      cfg := s.cfg, ie := s.ie, ovr := s.ovr, inAddr := s.inAddr, inLen := s.inLen, outAddr := s.outAddr
      srcAddr := s.srcAddr, srcBits := s.srcBits, dstAddr := s.dstAddr, hsel := s.hsel, csel := s.csel
      cwsel := s.cwsel, nsel := s.nsel, freeCtr := s.freeCtr, host := s.host } ∧
    (i ≠ .analyze → i ≠ .clear → t.hist = s.hist) ∧
    (i ≠ .buildtree → i ≠ .clear → t.tree = s.tree) ∧
    (i ≠ .buildtable → i ≠ .clear → t.ct = s.ct) ∧
    (i ≠ .compress → i ≠ .wopen → i ≠ .wbit true → i ≠ .wbit false → i ≠ .wclose → i ≠ .clear → t.wr = s.wr) ∧
    (i ≠ .decompress → i ≠ .ropen → i ≠ .rbit → i ≠ .rclose → i ≠ .clear → t.rd = s.rd) ∧
    (i ≠ .decompress → i ≠ .clear → t.dstLen = s.dstLen ∧ t.dstValid = s.dstValid) ∧
    (i ≠ .compress → i ≠ .decompress → i ≠ .wbit true → i ≠ .wbit false → i ≠ .wclose → t.mem = s.mem)

/-- 20_memory.md R120, 60_exceptions.md R354: a command changes no byte outside the write footprint that HOST is
barred from (R114), whichever way it ends. -/
def Obligations.CommandsWriteOnlyTheirFootprint : Prop :=
  ∀ (i : Instr) (s t : State) (a : Nat), exec i s = .next t →
    (∀ p ∈ footprint i s, p.dir = .write → a < p.base ∨ p.base + p.len ≤ a) → t.mem.read a = s.mem.read a

/-- 20_memory.md R111, R114, R120: bytes outside a command's footprint do not interact with it: two data memories that
agree on the footprint give the same end, the same state and the same bytes of the footprint. -/
def Obligations.CommandsDependOnlyOnTheirFootprint : Prop :=
  ∀ (i : Instr) (s : State) (M : Memory), Memory.wf s.mem → Memory.wf M →
    (∀ p ∈ footprint i s, ∀ a, p.base ≤ a → a < p.base + p.len → M.read a = s.mem.read a) →
    ∃ t t', exec i s = .next t ∧ exec i { s with mem := M } = .next t' ∧ t' = { t with mem := t'.mem } ∧
      ∀ p ∈ footprint i s, ∀ a, p.base ≤ a → a < p.base + p.len → t'.mem.read a = t.mem.read a

/-- 60_exceptions.md R350, R351, R355: a command that starts without an error record and ends with one has recorded a
code of R350 that it can raise: BUS with the command's ERR_INFO of R351, STREAM and EOS with their ERR_ADDR and
ERR_INFO; the addresses of BUS and the record of ABSENT are in the statements of the commands. -/
def Obligations.ErrorRecordsAreThoseOfTheTable : Prop :=
  ∀ (i : Instr) (s t : State), s.err = false → s.errcode = .none → exec i s = .next t →
    (t.err = false → t.errcode = .none) ∧
    (t.err = true →
      (t.errcode = .bus ∧
        ((i = .analyze ∧ t.errInfo = 0x100#32) ∨ (i = .compress ∧ (t.errInfo = 0x400#32 ∨ t.errInfo = 0x401#32)) ∨
         (i = .decompress ∧ (t.errInfo = 0x500#32 ∨ t.errInfo = 0x501#32)) ∨
         ((i = .wbit false ∨ i = .wbit true) ∧ t.errInfo = 0x801#32) ∨ (i = .wclose ∧ t.errInfo = 0x901#32) ∨
         (i = .rbit ∧ t.errInfo = 0xB00#32))) ∨
      (t.errcode = .absent ∧ i = .compress) ∨
      (t.errcode = .stream ∧ t.errAddr = 0 ∧ t.errInfo = BitVec.ofNat 32 (opcode i) ∧
        i ∈ [Instr.compress, .decompress, .wopen, .wbit false, .wbit true, .wclose, .ropen, .rbit, .rclose]) ∨
      (t.errcode = .eos ∧ i = .rbit ∧ t.errAddr = 0 ∧ t.errInfo = 0xB#32))

/-! ## Invariants -/

/-- Log 6, 20_memory.md R100, R103: every step of every agent keeps the data memory canonical and inside MEM_SIZE. -/
def Obligations.MemoryStaysCanonical : Prop :=
  ∀ s t : State, MemInv s → step s = .next t → MemInv t

/-- 10_state.md R63, 42_tree.md R224, R226: every step keeps a tree: the registers of R63's table, the arena's shape,
the exact weights, and every weight within WGT_W bits. -/
def Obligations.TheTreeStaysATree : Prop :=
  ∀ s t : State, TreeInv s → step s = .next t → TreeInv t

/-- 10_state.md R64, 43_table.md R254: every step keeps the code table prefix-free, its codes within MAXCODE bits. The
tree's invariant is carried along, since BUILDTABLE reads the tree. -/
def Obligations.TheCodeTableStaysPrefixFree : Prop :=
  ∀ s t : State, TreeInv s → TableInv s → step s = .next t → TableInv t

/-- 10_state.md R50, R65, R66, 40_stream.md R164, R166: every step keeps the streams' counters consistent: an open
writer has accepted 8*WBYTES + WCNT bits, a valid artifact has ceil(WBITS / 8) bytes, no counter can wrap, and the
reader never passes its end. -/
def Obligations.StreamCountersStayConsistent : Prop :=
  ∀ s t : State, WriterInv s → ReaderInv s → step s = .next t →
    WriterInv t ∧ ReaderInv t ∧ t.wr.wbits ≤ 8 * (t.cfg.memSize + 1)

/-- 10_state.md R36 to R38, R47, R56 to R58, R61: every step keeps the error record, HIST and the selectors well
formed: ERR, ERRCODE and the record agree, DONE and ERR are 0 while BUSY = 1, every selector fits its width. -/
def Obligations.RecordAndSelectorsStayWellFormed : Prop :=
  ∀ s t : State, RecordInv s → HistInv s → step s = .next t → RecordInv t ∧ HistInv t

/-- 10_state.md R70: the reset state meets every invariant. -/
def Obligations.ResetMeetsTheInvariants : Prop := Inv State.reset
end

