-- ==== Sys2Proof/Laws/Sparse.lean ====
section
/-! SUPPORT. The laws of sparse memories: read after write, the canonical form is kept, and canonical memories that
read alike are equal. -/

namespace Sys2Proof.Machine

section
variable {α : Type} (d : α)

@[simp] theorem Sparse.get_nil (a : Nat) : Sparse.get d ([] : Sparse α) a = d := rfl

/-- An index nothing lists reads as the unlisted value. -/
theorem Sparse.get_of_not_mem (m : Sparse α) (a : Nat) (h : ∀ e ∈ m, e.1 ≠ a) : Sparse.get d m a = d := by
  induction m with
  | nil => rfl
  | cons e m ih =>
    obtain ⟨k, v⟩ := e
    have hk : k ≠ a := h (k, v) (by simp)
    simp only [Sparse.get, hk, if_false]
    exact ih fun e he => h e (by simp [he])

/-- An index above every listed one reads as the unlisted value. -/
theorem Sparse.get_of_below (m : Sparse α) (n a : Nat) (h : Sparse.below n m) (ha : n ≤ a) : Sparse.get d m a = d :=
  Sparse.get_of_not_mem d m a fun e he => by have := h e he; omega

/-- In a canonical memory a listed pair is what its index reads as. -/
theorem Sparse.get_of_mem [DecidableEq α] (m : Sparse α) (hw : Sparse.wf d m) (e : Nat × α) (he : e ∈ m) :
    Sparse.get d m e.1 = e.2 := by
  induction m with
  | nil => cases he
  | cons f m ih =>
    obtain ⟨k, v⟩ := f
    rcases List.mem_cons.1 he with rfl | he
    · simp [Sparse.get]
    · have hlt : k < e.1 := (List.pairwise_cons.1 hw.1).1 e he
      have hne : k ≠ e.1 := by omega
      simp only [Sparse.get, hne, if_false]
      exact ih ⟨(List.pairwise_cons.1 hw.1).2, fun x hx => hw.2 x (by simp [hx])⟩ he

/-- An index that does not read as the unlisted value is listed. -/
theorem Sparse.mem_of_get_ne (m : Sparse α) (a : Nat) (h : Sparse.get d m a ≠ d) : (a, Sparse.get d m a) ∈ m := by
  induction m with
  | nil => exact absurd rfl h
  | cons e m ih =>
    obtain ⟨k, v⟩ := e
    by_cases hk : k = a
    · subst hk; simp [Sparse.get]
    · simp only [Sparse.get, hk, if_false] at h ⊢
      exact List.mem_cons_of_mem _ (ih h)

variable [DecidableEq α]

@[simp] theorem Sparse.get_set_same (m : Sparse α) (hw : Sparse.wf d m) (a : Nat) (v : α) :
    Sparse.get d (Sparse.set d m a v) a = v := by
  induction m with
  | nil => by_cases hv : v = d <;> simp [Sparse.set, Sparse.get, hv]
  | cons e m ih =>
    obtain ⟨k, x⟩ := e
    obtain ⟨hp, hd⟩ := hw
    have hp' := List.pairwise_cons.1 hp
    simp only [Sparse.set]
    split_ifs with h1 h2 h3 h4
    · have : ∀ e ∈ ((k, x) :: m), e.1 ≠ a := by
        intro e he
        rcases List.mem_cons.1 he with rfl | he
        · show k ≠ a; omega
        · have := hp'.1 e he; simp only at this; omega
      rw [Sparse.get_of_not_mem d _ a this, h2]
    · simp [Sparse.get]
    · have : ∀ e ∈ m, e.1 ≠ a := fun e he => by have := hp'.1 e he; simp only at this; omega
      rw [Sparse.get_of_not_mem d _ a this, h4]
    · simp [Sparse.get]
    · have hk : k ≠ a := fun h => h3 h.symm
      simp only [Sparse.get, hk, if_false]
      exact ih ⟨hp'.2, fun e he => hd e (by simp [he])⟩

/-- A write leaves every other index alone. -/
theorem Sparse.get_set_other (m : Sparse α) (a b : Nat) (v : α) (h : b ≠ a) :
    Sparse.get d (Sparse.set d m a v) b = Sparse.get d m b := by
  have hab : ¬ a = b := fun e => h e.symm
  induction m with
  | nil => by_cases hv : v = d <;> simp [Sparse.set, Sparse.get, hv, hab]
  | cons e m ih =>
    obtain ⟨k, x⟩ := e
    simp only [Sparse.set]
    split_ifs with h1 h2 h3 h4
    · rfl
    · simp [Sparse.get, hab]
    · subst h3; simp [Sparse.get, hab]
    · subst h3; simp [Sparse.get, hab]
    · simp only [Sparse.get, ih]

/-- A write lists nothing but the old pairs and the new one. -/
theorem Sparse.mem_set (m : Sparse α) (a : Nat) (v : α) (e : Nat × α) (he : e ∈ Sparse.set d m a v) :
    e ∈ m ∨ (e = (a, v) ∧ v ≠ d) := by
  induction m with
  | nil =>
    simp only [Sparse.set] at he
    split_ifs at he with hv
    · cases he
    · exact Or.inr ⟨by simpa using he, hv⟩
  | cons f m ih =>
    obtain ⟨k, x⟩ := f
    simp only [Sparse.set] at he
    split_ifs at he with h1 h2 h3 h4
    · exact Or.inl he
    · rcases List.mem_cons.1 he with h | h
      · exact Or.inr ⟨h, h2⟩
      · exact Or.inl h
    · exact Or.inl (List.mem_cons_of_mem _ he)
    · rcases List.mem_cons.1 he with h | h
      · exact Or.inr ⟨h, h4⟩
      · exact Or.inl (List.mem_cons_of_mem _ h)
    · rcases List.mem_cons.1 he with h | h
      · exact Or.inl (by simp [h])
      · rcases ih h with h | h
        · exact Or.inl (List.mem_cons_of_mem _ h)
        · exact Or.inr h

/-- A write keeps the canonical form. -/
theorem Sparse.wf_set (m : Sparse α) (a : Nat) (v : α) (hw : Sparse.wf d m) : Sparse.wf d (Sparse.set d m a v) := by
  induction m with
  | nil => by_cases hv : v = d <;> simp [Sparse.set, hv, Sparse.wf]
  | cons e m ih =>
    obtain ⟨k, x⟩ := e
    obtain ⟨hp, hd⟩ := hw
    have hp' := List.pairwise_cons.1 hp
    have hm : Sparse.wf d m := ⟨hp'.2, fun e he => hd e (by simp [he])⟩
    simp only [Sparse.set]
    split_ifs with h1 h2 h3 h4
    · exact ⟨hp, hd⟩
    · refine ⟨List.pairwise_cons.2 ⟨?_, hp⟩, ?_⟩
      · intro e he
        rcases List.mem_cons.1 he with rfl | he
        · exact h1
        · have := hp'.1 e he; simp only at this ⊢; omega
      · intro e he
        rcases List.mem_cons.1 he with rfl | he
        · exact h2
        · exact hd e he
    · exact hm
    · refine ⟨List.pairwise_cons.2 ⟨?_, hp'.2⟩, ?_⟩
      · intro e he; have := hp'.1 e he; simp only at this ⊢; omega
      · intro e he
        rcases List.mem_cons.1 he with rfl | he
        · exact h4
        · exact hm.2 e he
    · have ih' := ih hm
      refine ⟨List.pairwise_cons.2 ⟨?_, ih'.1⟩, ?_⟩
      · intro e he
        rcases Sparse.mem_set d m a v e he with he | ⟨rfl, -⟩
        · exact hp'.1 e he
        · show k < a; omega
      · intro e he
        rcases List.mem_cons.1 he with rfl | he
        · exact hd (k, x) (by simp)
        · exact ih'.2 e he

omit [DecidableEq α] in
theorem Sparse.below_nil (n : Nat) : Sparse.below n ([] : Sparse α) := by intro e he; cases he

/-- A write below the bound keeps the bound. -/
theorem Sparse.below_set (m : Sparse α) (n a : Nat) (v : α) (h : Sparse.below n m) (ha : a < n) :
    Sparse.below n (Sparse.set d m a v) := by
  intro e he
  rcases Sparse.mem_set d m a v e he with he | ⟨rfl, -⟩
  · exact h e he
  · exact ha

/-- Canonical memories that read alike everywhere are equal. -/
theorem Sparse.ext (m m' : Sparse α) (hw : Sparse.wf d m) (hw' : Sparse.wf d m')
    (h : ∀ a, Sparse.get d m a = Sparse.get d m' a) : m = m' := by
  have hmem : ∀ (m m' : Sparse α), Sparse.wf d m → Sparse.wf d m' → (∀ a, Sparse.get d m a = Sparse.get d m' a) →
      ∀ e ∈ m, e ∈ m' := by
    intro m m' hw hw' h e he
    have h1 := Sparse.get_of_mem d m hw e he
    have h2 : Sparse.get d m' e.1 = e.2 := by rw [← h, h1]
    have h3 := Sparse.mem_of_get_ne d m' e.1 (by rw [h2]; exact hw.2 e he)
    rw [h2] at h3
    exact h3
  have hperm : List.Perm m m' := by
    refine (List.perm_ext_iff_of_nodup ?_ ?_).2 fun e =>
      ⟨hmem m m' hw hw' h e, hmem m' m hw' hw (fun a => (h a).symm) e⟩
    · exact hw.1.imp fun {x y} hxy e => by rw [e] at hxy; omega
    · exact hw'.1.imp fun {x y} hxy e => by rw [e] at hxy; omega
  exact hperm.eq_of_pairwise (fun x y _ _ hxy hyx => absurd hxy (by omega)) hw.1 hw'.1

end

end Sys2Proof.Machine
end

