-- ==== Sys2Proof/Laws/State.lean ====
section
/-! SUPPORT. One lemma per field per update: what each named update of the state leaves in each field. -/

namespace Sys2Proof.Machine

/-! ### complete -/

@[simp] theorem complete_cfg (s : State) : (complete s).cfg = s.cfg := rfl
@[simp] theorem complete_phase (s : State) : (complete s).phase = .idle := rfl
@[simp] theorem complete_ie (s : State) : (complete s).ie = s.ie := rfl
@[simp] theorem complete_done (s : State) : (complete s).done = true := rfl
@[simp] theorem complete_err (s : State) : (complete s).err = s.err := rfl
@[simp] theorem complete_ovr (s : State) : (complete s).ovr = s.ovr := rfl
@[simp] theorem complete_errcode (s : State) : (complete s).errcode = s.errcode := rfl
@[simp] theorem complete_errAddr (s : State) : (complete s).errAddr = s.errAddr := rfl
@[simp] theorem complete_errInfo (s : State) : (complete s).errInfo = s.errInfo := rfl
@[simp] theorem complete_inAddr (s : State) : (complete s).inAddr = s.inAddr := rfl
@[simp] theorem complete_inLen (s : State) : (complete s).inLen = s.inLen := rfl
@[simp] theorem complete_outAddr (s : State) : (complete s).outAddr = s.outAddr := rfl
@[simp] theorem complete_srcAddr (s : State) : (complete s).srcAddr = s.srcAddr := rfl
@[simp] theorem complete_srcBits (s : State) : (complete s).srcBits = s.srcBits := rfl
@[simp] theorem complete_dstAddr (s : State) : (complete s).dstAddr = s.dstAddr := rfl
@[simp] theorem complete_hsel (s : State) : (complete s).hsel = s.hsel := rfl
@[simp] theorem complete_csel (s : State) : (complete s).csel = s.csel := rfl
@[simp] theorem complete_cwsel (s : State) : (complete s).cwsel = s.cwsel := rfl
@[simp] theorem complete_nsel (s : State) : (complete s).nsel = s.nsel := rfl
@[simp] theorem complete_hist (s : State) : (complete s).hist = s.hist := rfl
@[simp] theorem complete_tree (s : State) : (complete s).tree = s.tree := rfl
@[simp] theorem complete_ct (s : State) : (complete s).ct = s.ct := rfl
@[simp] theorem complete_wr (s : State) : (complete s).wr = s.wr := rfl
@[simp] theorem complete_rd (s : State) : (complete s).rd = s.rd := rfl
@[simp] theorem complete_dstLen (s : State) : (complete s).dstLen = s.dstLen := rfl
@[simp] theorem complete_dstValid (s : State) : (complete s).dstValid = s.dstValid := rfl
@[simp] theorem complete_mem (s : State) : (complete s).mem = s.mem := rfl
@[simp] theorem complete_freeCtr (s : State) : (complete s).freeCtr = s.freeCtr := rfl
@[simp] theorem complete_host (s : State) : (complete s).host = s.host := rfl

/-! ### raiseErr -/

@[simp] theorem raiseErr_cfg (e : Err) (s : State) : (raiseErr e s).cfg = s.cfg := rfl
@[simp] theorem raiseErr_phase (e : Err) (s : State) : (raiseErr e s).phase = .idle := rfl
@[simp] theorem raiseErr_ie (e : Err) (s : State) : (raiseErr e s).ie = s.ie := rfl
@[simp] theorem raiseErr_done (e : Err) (s : State) : (raiseErr e s).done = true := rfl
@[simp] theorem raiseErr_err (e : Err) (s : State) : (raiseErr e s).err = true := rfl
@[simp] theorem raiseErr_ovr (e : Err) (s : State) : (raiseErr e s).ovr = s.ovr := rfl
@[simp] theorem raiseErr_errcode (e : Err) (s : State) : (raiseErr e s).errcode = e.code := rfl
@[simp] theorem raiseErr_errAddr (e : Err) (s : State) : (raiseErr e s).errAddr = BitVec.ofNat 32 e.addr := rfl
@[simp] theorem raiseErr_errInfo (e : Err) (s : State) : (raiseErr e s).errInfo = e.info := rfl
@[simp] theorem raiseErr_inAddr (e : Err) (s : State) : (raiseErr e s).inAddr = s.inAddr := rfl
@[simp] theorem raiseErr_inLen (e : Err) (s : State) : (raiseErr e s).inLen = s.inLen := rfl
@[simp] theorem raiseErr_outAddr (e : Err) (s : State) : (raiseErr e s).outAddr = s.outAddr := rfl
@[simp] theorem raiseErr_srcAddr (e : Err) (s : State) : (raiseErr e s).srcAddr = s.srcAddr := rfl
@[simp] theorem raiseErr_srcBits (e : Err) (s : State) : (raiseErr e s).srcBits = s.srcBits := rfl
@[simp] theorem raiseErr_dstAddr (e : Err) (s : State) : (raiseErr e s).dstAddr = s.dstAddr := rfl
@[simp] theorem raiseErr_hsel (e : Err) (s : State) : (raiseErr e s).hsel = s.hsel := rfl
@[simp] theorem raiseErr_csel (e : Err) (s : State) : (raiseErr e s).csel = s.csel := rfl
@[simp] theorem raiseErr_cwsel (e : Err) (s : State) : (raiseErr e s).cwsel = s.cwsel := rfl
@[simp] theorem raiseErr_nsel (e : Err) (s : State) : (raiseErr e s).nsel = s.nsel := rfl
@[simp] theorem raiseErr_hist (e : Err) (s : State) : (raiseErr e s).hist = s.hist := rfl
@[simp] theorem raiseErr_tree (e : Err) (s : State) : (raiseErr e s).tree = s.tree := rfl
@[simp] theorem raiseErr_ct (e : Err) (s : State) : (raiseErr e s).ct = s.ct := rfl
@[simp] theorem raiseErr_wr (e : Err) (s : State) : (raiseErr e s).wr = s.wr := rfl
@[simp] theorem raiseErr_rd (e : Err) (s : State) : (raiseErr e s).rd = s.rd := rfl
@[simp] theorem raiseErr_dstLen (e : Err) (s : State) : (raiseErr e s).dstLen = s.dstLen := rfl
@[simp] theorem raiseErr_dstValid (e : Err) (s : State) : (raiseErr e s).dstValid = s.dstValid := rfl
@[simp] theorem raiseErr_mem (e : Err) (s : State) : (raiseErr e s).mem = s.mem := rfl
@[simp] theorem raiseErr_freeCtr (e : Err) (s : State) : (raiseErr e s).freeCtr = s.freeCtr := rfl
@[simp] theorem raiseErr_host (e : Err) (s : State) : (raiseErr e s).host = s.host := rfl

/-! ### setHist -/

@[simp] theorem setHist_cfg (s : State) (x : Nat) (v : Word) : (s.setHist x v).cfg = s.cfg := rfl
@[simp] theorem setHist_phase (s : State) (x : Nat) (v : Word) : (s.setHist x v).phase = s.phase := rfl
@[simp] theorem setHist_ie (s : State) (x : Nat) (v : Word) : (s.setHist x v).ie = s.ie := rfl
@[simp] theorem setHist_done (s : State) (x : Nat) (v : Word) : (s.setHist x v).done = s.done := rfl
@[simp] theorem setHist_err (s : State) (x : Nat) (v : Word) : (s.setHist x v).err = s.err := rfl
@[simp] theorem setHist_ovr (s : State) (x : Nat) (v : Word) : (s.setHist x v).ovr = s.ovr := rfl
@[simp] theorem setHist_errcode (s : State) (x : Nat) (v : Word) : (s.setHist x v).errcode = s.errcode := rfl
@[simp] theorem setHist_errAddr (s : State) (x : Nat) (v : Word) : (s.setHist x v).errAddr = s.errAddr := rfl
@[simp] theorem setHist_errInfo (s : State) (x : Nat) (v : Word) : (s.setHist x v).errInfo = s.errInfo := rfl
@[simp] theorem setHist_inAddr (s : State) (x : Nat) (v : Word) : (s.setHist x v).inAddr = s.inAddr := rfl
@[simp] theorem setHist_inLen (s : State) (x : Nat) (v : Word) : (s.setHist x v).inLen = s.inLen := rfl
@[simp] theorem setHist_outAddr (s : State) (x : Nat) (v : Word) : (s.setHist x v).outAddr = s.outAddr := rfl
@[simp] theorem setHist_srcAddr (s : State) (x : Nat) (v : Word) : (s.setHist x v).srcAddr = s.srcAddr := rfl
@[simp] theorem setHist_srcBits (s : State) (x : Nat) (v : Word) : (s.setHist x v).srcBits = s.srcBits := rfl
@[simp] theorem setHist_dstAddr (s : State) (x : Nat) (v : Word) : (s.setHist x v).dstAddr = s.dstAddr := rfl
@[simp] theorem setHist_hsel (s : State) (x : Nat) (v : Word) : (s.setHist x v).hsel = s.hsel := rfl
@[simp] theorem setHist_csel (s : State) (x : Nat) (v : Word) : (s.setHist x v).csel = s.csel := rfl
@[simp] theorem setHist_cwsel (s : State) (x : Nat) (v : Word) : (s.setHist x v).cwsel = s.cwsel := rfl
@[simp] theorem setHist_nsel (s : State) (x : Nat) (v : Word) : (s.setHist x v).nsel = s.nsel := rfl
@[simp] theorem setHist_hist (s : State) (x : Nat) (v : Word) : (s.setHist x v).hist = Sparse.set 0 s.hist x v := rfl
@[simp] theorem setHist_tree (s : State) (x : Nat) (v : Word) : (s.setHist x v).tree = s.tree := rfl
@[simp] theorem setHist_ct (s : State) (x : Nat) (v : Word) : (s.setHist x v).ct = s.ct := rfl
@[simp] theorem setHist_wr (s : State) (x : Nat) (v : Word) : (s.setHist x v).wr = s.wr := rfl
@[simp] theorem setHist_rd (s : State) (x : Nat) (v : Word) : (s.setHist x v).rd = s.rd := rfl
@[simp] theorem setHist_dstLen (s : State) (x : Nat) (v : Word) : (s.setHist x v).dstLen = s.dstLen := rfl
@[simp] theorem setHist_dstValid (s : State) (x : Nat) (v : Word) : (s.setHist x v).dstValid = s.dstValid := rfl
@[simp] theorem setHist_mem (s : State) (x : Nat) (v : Word) : (s.setHist x v).mem = s.mem := rfl
@[simp] theorem setHist_freeCtr (s : State) (x : Nat) (v : Word) : (s.setHist x v).freeCtr = s.freeCtr := rfl
@[simp] theorem setHist_host (s : State) (x : Nat) (v : Word) : (s.setHist x v).host = s.host := rfl

/-! ### wOpen -/

@[simp] theorem wOpen_cfg (b : Word) (s : State) : (wOpen b s).cfg = s.cfg := rfl
@[simp] theorem wOpen_phase (b : Word) (s : State) : (wOpen b s).phase = s.phase := rfl
@[simp] theorem wOpen_ie (b : Word) (s : State) : (wOpen b s).ie = s.ie := rfl
@[simp] theorem wOpen_done (b : Word) (s : State) : (wOpen b s).done = s.done := rfl
@[simp] theorem wOpen_err (b : Word) (s : State) : (wOpen b s).err = s.err := rfl
@[simp] theorem wOpen_ovr (b : Word) (s : State) : (wOpen b s).ovr = s.ovr := rfl
@[simp] theorem wOpen_errcode (b : Word) (s : State) : (wOpen b s).errcode = s.errcode := rfl
@[simp] theorem wOpen_errAddr (b : Word) (s : State) : (wOpen b s).errAddr = s.errAddr := rfl
@[simp] theorem wOpen_errInfo (b : Word) (s : State) : (wOpen b s).errInfo = s.errInfo := rfl
@[simp] theorem wOpen_inAddr (b : Word) (s : State) : (wOpen b s).inAddr = s.inAddr := rfl
@[simp] theorem wOpen_inLen (b : Word) (s : State) : (wOpen b s).inLen = s.inLen := rfl
@[simp] theorem wOpen_outAddr (b : Word) (s : State) : (wOpen b s).outAddr = s.outAddr := rfl
@[simp] theorem wOpen_srcAddr (b : Word) (s : State) : (wOpen b s).srcAddr = s.srcAddr := rfl
@[simp] theorem wOpen_srcBits (b : Word) (s : State) : (wOpen b s).srcBits = s.srcBits := rfl
@[simp] theorem wOpen_dstAddr (b : Word) (s : State) : (wOpen b s).dstAddr = s.dstAddr := rfl
@[simp] theorem wOpen_hsel (b : Word) (s : State) : (wOpen b s).hsel = s.hsel := rfl
@[simp] theorem wOpen_csel (b : Word) (s : State) : (wOpen b s).csel = s.csel := rfl
@[simp] theorem wOpen_cwsel (b : Word) (s : State) : (wOpen b s).cwsel = s.cwsel := rfl
@[simp] theorem wOpen_nsel (b : Word) (s : State) : (wOpen b s).nsel = s.nsel := rfl
@[simp] theorem wOpen_hist (b : Word) (s : State) : (wOpen b s).hist = s.hist := rfl
@[simp] theorem wOpen_tree (b : Word) (s : State) : (wOpen b s).tree = s.tree := rfl
@[simp] theorem wOpen_ct (b : Word) (s : State) : (wOpen b s).ct = s.ct := rfl
@[simp] theorem wOpen_wr (b : Word) (s : State) : (wOpen b s).wr = { wopen := true, wbase := b, wacc := 0, wcnt := 0, wbits := 0, wbytes := 0, outValid := false } := rfl
@[simp] theorem wOpen_rd (b : Word) (s : State) : (wOpen b s).rd = s.rd := rfl
@[simp] theorem wOpen_dstLen (b : Word) (s : State) : (wOpen b s).dstLen = s.dstLen := rfl
@[simp] theorem wOpen_dstValid (b : Word) (s : State) : (wOpen b s).dstValid = s.dstValid := rfl
@[simp] theorem wOpen_mem (b : Word) (s : State) : (wOpen b s).mem = s.mem := rfl
@[simp] theorem wOpen_freeCtr (b : Word) (s : State) : (wOpen b s).freeCtr = s.freeCtr := rfl
@[simp] theorem wOpen_host (b : Word) (s : State) : (wOpen b s).host = s.host := rfl

/-! ### releaseWriter -/

@[simp] theorem releaseWriter_cfg (s : State) : (releaseWriter s).cfg = s.cfg := rfl
@[simp] theorem releaseWriter_phase (s : State) : (releaseWriter s).phase = s.phase := rfl
@[simp] theorem releaseWriter_ie (s : State) : (releaseWriter s).ie = s.ie := rfl
@[simp] theorem releaseWriter_done (s : State) : (releaseWriter s).done = s.done := rfl
@[simp] theorem releaseWriter_err (s : State) : (releaseWriter s).err = s.err := rfl
@[simp] theorem releaseWriter_ovr (s : State) : (releaseWriter s).ovr = s.ovr := rfl
@[simp] theorem releaseWriter_errcode (s : State) : (releaseWriter s).errcode = s.errcode := rfl
@[simp] theorem releaseWriter_errAddr (s : State) : (releaseWriter s).errAddr = s.errAddr := rfl
@[simp] theorem releaseWriter_errInfo (s : State) : (releaseWriter s).errInfo = s.errInfo := rfl
@[simp] theorem releaseWriter_inAddr (s : State) : (releaseWriter s).inAddr = s.inAddr := rfl
@[simp] theorem releaseWriter_inLen (s : State) : (releaseWriter s).inLen = s.inLen := rfl
@[simp] theorem releaseWriter_outAddr (s : State) : (releaseWriter s).outAddr = s.outAddr := rfl
@[simp] theorem releaseWriter_srcAddr (s : State) : (releaseWriter s).srcAddr = s.srcAddr := rfl
@[simp] theorem releaseWriter_srcBits (s : State) : (releaseWriter s).srcBits = s.srcBits := rfl
@[simp] theorem releaseWriter_dstAddr (s : State) : (releaseWriter s).dstAddr = s.dstAddr := rfl
@[simp] theorem releaseWriter_hsel (s : State) : (releaseWriter s).hsel = s.hsel := rfl
@[simp] theorem releaseWriter_csel (s : State) : (releaseWriter s).csel = s.csel := rfl
@[simp] theorem releaseWriter_cwsel (s : State) : (releaseWriter s).cwsel = s.cwsel := rfl
@[simp] theorem releaseWriter_nsel (s : State) : (releaseWriter s).nsel = s.nsel := rfl
@[simp] theorem releaseWriter_hist (s : State) : (releaseWriter s).hist = s.hist := rfl
@[simp] theorem releaseWriter_tree (s : State) : (releaseWriter s).tree = s.tree := rfl
@[simp] theorem releaseWriter_ct (s : State) : (releaseWriter s).ct = s.ct := rfl
@[simp] theorem releaseWriter_wr (s : State) : (releaseWriter s).wr = { s.wr with wopen := false, outValid := false } := rfl
@[simp] theorem releaseWriter_rd (s : State) : (releaseWriter s).rd = s.rd := rfl
@[simp] theorem releaseWriter_dstLen (s : State) : (releaseWriter s).dstLen = s.dstLen := rfl
@[simp] theorem releaseWriter_dstValid (s : State) : (releaseWriter s).dstValid = s.dstValid := rfl
@[simp] theorem releaseWriter_mem (s : State) : (releaseWriter s).mem = s.mem := rfl
@[simp] theorem releaseWriter_freeCtr (s : State) : (releaseWriter s).freeCtr = s.freeCtr := rfl
@[simp] theorem releaseWriter_host (s : State) : (releaseWriter s).host = s.host := rfl

/-! ### byteOut -/

@[simp] theorem byteOut_cfg (s : State) : (byteOut s).cfg = s.cfg := rfl
@[simp] theorem byteOut_phase (s : State) : (byteOut s).phase = s.phase := rfl
@[simp] theorem byteOut_ie (s : State) : (byteOut s).ie = s.ie := rfl
@[simp] theorem byteOut_done (s : State) : (byteOut s).done = s.done := rfl
@[simp] theorem byteOut_err (s : State) : (byteOut s).err = s.err := rfl
@[simp] theorem byteOut_ovr (s : State) : (byteOut s).ovr = s.ovr := rfl
@[simp] theorem byteOut_errcode (s : State) : (byteOut s).errcode = s.errcode := rfl
@[simp] theorem byteOut_errAddr (s : State) : (byteOut s).errAddr = s.errAddr := rfl
@[simp] theorem byteOut_errInfo (s : State) : (byteOut s).errInfo = s.errInfo := rfl
@[simp] theorem byteOut_inAddr (s : State) : (byteOut s).inAddr = s.inAddr := rfl
@[simp] theorem byteOut_inLen (s : State) : (byteOut s).inLen = s.inLen := rfl
@[simp] theorem byteOut_outAddr (s : State) : (byteOut s).outAddr = s.outAddr := rfl
@[simp] theorem byteOut_srcAddr (s : State) : (byteOut s).srcAddr = s.srcAddr := rfl
@[simp] theorem byteOut_srcBits (s : State) : (byteOut s).srcBits = s.srcBits := rfl
@[simp] theorem byteOut_dstAddr (s : State) : (byteOut s).dstAddr = s.dstAddr := rfl
@[simp] theorem byteOut_hsel (s : State) : (byteOut s).hsel = s.hsel := rfl
@[simp] theorem byteOut_csel (s : State) : (byteOut s).csel = s.csel := rfl
@[simp] theorem byteOut_cwsel (s : State) : (byteOut s).cwsel = s.cwsel := rfl
@[simp] theorem byteOut_nsel (s : State) : (byteOut s).nsel = s.nsel := rfl
@[simp] theorem byteOut_hist (s : State) : (byteOut s).hist = s.hist := rfl
@[simp] theorem byteOut_tree (s : State) : (byteOut s).tree = s.tree := rfl
@[simp] theorem byteOut_ct (s : State) : (byteOut s).ct = s.ct := rfl
@[simp] theorem byteOut_wr (s : State) : (byteOut s).wr = { s.wr with wbytes := s.wr.wbytes + 1, wacc := 0, wcnt := 0 } := rfl
@[simp] theorem byteOut_rd (s : State) : (byteOut s).rd = s.rd := rfl
@[simp] theorem byteOut_dstLen (s : State) : (byteOut s).dstLen = s.dstLen := rfl
@[simp] theorem byteOut_dstValid (s : State) : (byteOut s).dstValid = s.dstValid := rfl
@[simp] theorem byteOut_mem (s : State) : (byteOut s).mem = s.mem := rfl
@[simp] theorem byteOut_freeCtr (s : State) : (byteOut s).freeCtr = s.freeCtr := rfl
@[simp] theorem byteOut_host (s : State) : (byteOut s).host = s.host := rfl

/-! ### closeWriter -/

@[simp] theorem closeWriter_cfg (s : State) : (closeWriter s).cfg = s.cfg := rfl
@[simp] theorem closeWriter_phase (s : State) : (closeWriter s).phase = s.phase := rfl
@[simp] theorem closeWriter_ie (s : State) : (closeWriter s).ie = s.ie := rfl
@[simp] theorem closeWriter_done (s : State) : (closeWriter s).done = s.done := rfl
@[simp] theorem closeWriter_err (s : State) : (closeWriter s).err = s.err := rfl
@[simp] theorem closeWriter_ovr (s : State) : (closeWriter s).ovr = s.ovr := rfl
@[simp] theorem closeWriter_errcode (s : State) : (closeWriter s).errcode = s.errcode := rfl
@[simp] theorem closeWriter_errAddr (s : State) : (closeWriter s).errAddr = s.errAddr := rfl
@[simp] theorem closeWriter_errInfo (s : State) : (closeWriter s).errInfo = s.errInfo := rfl
@[simp] theorem closeWriter_inAddr (s : State) : (closeWriter s).inAddr = s.inAddr := rfl
@[simp] theorem closeWriter_inLen (s : State) : (closeWriter s).inLen = s.inLen := rfl
@[simp] theorem closeWriter_outAddr (s : State) : (closeWriter s).outAddr = s.outAddr := rfl
@[simp] theorem closeWriter_srcAddr (s : State) : (closeWriter s).srcAddr = s.srcAddr := rfl
@[simp] theorem closeWriter_srcBits (s : State) : (closeWriter s).srcBits = s.srcBits := rfl
@[simp] theorem closeWriter_dstAddr (s : State) : (closeWriter s).dstAddr = s.dstAddr := rfl
@[simp] theorem closeWriter_hsel (s : State) : (closeWriter s).hsel = s.hsel := rfl
@[simp] theorem closeWriter_csel (s : State) : (closeWriter s).csel = s.csel := rfl
@[simp] theorem closeWriter_cwsel (s : State) : (closeWriter s).cwsel = s.cwsel := rfl
@[simp] theorem closeWriter_nsel (s : State) : (closeWriter s).nsel = s.nsel := rfl
@[simp] theorem closeWriter_hist (s : State) : (closeWriter s).hist = s.hist := rfl
@[simp] theorem closeWriter_tree (s : State) : (closeWriter s).tree = s.tree := rfl
@[simp] theorem closeWriter_ct (s : State) : (closeWriter s).ct = s.ct := rfl
@[simp] theorem closeWriter_wr (s : State) : (closeWriter s).wr = { s.wr with wacc := 0, wcnt := 0, wopen := false, outValid := true } := rfl
@[simp] theorem closeWriter_rd (s : State) : (closeWriter s).rd = s.rd := rfl
@[simp] theorem closeWriter_dstLen (s : State) : (closeWriter s).dstLen = s.dstLen := rfl
@[simp] theorem closeWriter_dstValid (s : State) : (closeWriter s).dstValid = s.dstValid := rfl
@[simp] theorem closeWriter_mem (s : State) : (closeWriter s).mem = s.mem := rfl
@[simp] theorem closeWriter_freeCtr (s : State) : (closeWriter s).freeCtr = s.freeCtr := rfl
@[simp] theorem closeWriter_host (s : State) : (closeWriter s).host = s.host := rfl

/-! ### rOpen -/

@[simp] theorem rOpen_cfg (b : Word) (n : Nat) (s : State) : (rOpen b n s).cfg = s.cfg := rfl
@[simp] theorem rOpen_phase (b : Word) (n : Nat) (s : State) : (rOpen b n s).phase = s.phase := rfl
@[simp] theorem rOpen_ie (b : Word) (n : Nat) (s : State) : (rOpen b n s).ie = s.ie := rfl
@[simp] theorem rOpen_done (b : Word) (n : Nat) (s : State) : (rOpen b n s).done = s.done := rfl
@[simp] theorem rOpen_err (b : Word) (n : Nat) (s : State) : (rOpen b n s).err = s.err := rfl
@[simp] theorem rOpen_ovr (b : Word) (n : Nat) (s : State) : (rOpen b n s).ovr = s.ovr := rfl
@[simp] theorem rOpen_errcode (b : Word) (n : Nat) (s : State) : (rOpen b n s).errcode = s.errcode := rfl
@[simp] theorem rOpen_errAddr (b : Word) (n : Nat) (s : State) : (rOpen b n s).errAddr = s.errAddr := rfl
@[simp] theorem rOpen_errInfo (b : Word) (n : Nat) (s : State) : (rOpen b n s).errInfo = s.errInfo := rfl
@[simp] theorem rOpen_inAddr (b : Word) (n : Nat) (s : State) : (rOpen b n s).inAddr = s.inAddr := rfl
@[simp] theorem rOpen_inLen (b : Word) (n : Nat) (s : State) : (rOpen b n s).inLen = s.inLen := rfl
@[simp] theorem rOpen_outAddr (b : Word) (n : Nat) (s : State) : (rOpen b n s).outAddr = s.outAddr := rfl
@[simp] theorem rOpen_srcAddr (b : Word) (n : Nat) (s : State) : (rOpen b n s).srcAddr = s.srcAddr := rfl
@[simp] theorem rOpen_srcBits (b : Word) (n : Nat) (s : State) : (rOpen b n s).srcBits = s.srcBits := rfl
@[simp] theorem rOpen_dstAddr (b : Word) (n : Nat) (s : State) : (rOpen b n s).dstAddr = s.dstAddr := rfl
@[simp] theorem rOpen_hsel (b : Word) (n : Nat) (s : State) : (rOpen b n s).hsel = s.hsel := rfl
@[simp] theorem rOpen_csel (b : Word) (n : Nat) (s : State) : (rOpen b n s).csel = s.csel := rfl
@[simp] theorem rOpen_cwsel (b : Word) (n : Nat) (s : State) : (rOpen b n s).cwsel = s.cwsel := rfl
@[simp] theorem rOpen_nsel (b : Word) (n : Nat) (s : State) : (rOpen b n s).nsel = s.nsel := rfl
@[simp] theorem rOpen_hist (b : Word) (n : Nat) (s : State) : (rOpen b n s).hist = s.hist := rfl
@[simp] theorem rOpen_tree (b : Word) (n : Nat) (s : State) : (rOpen b n s).tree = s.tree := rfl
@[simp] theorem rOpen_ct (b : Word) (n : Nat) (s : State) : (rOpen b n s).ct = s.ct := rfl
@[simp] theorem rOpen_wr (b : Word) (n : Nat) (s : State) : (rOpen b n s).wr = s.wr := rfl
@[simp] theorem rOpen_rd (b : Word) (n : Nat) (s : State) : (rOpen b n s).rd = { ropen := true, rbase := b, rlen := n, rpos := 0, rbyte := 0, rdata := false } := rfl
@[simp] theorem rOpen_dstLen (b : Word) (n : Nat) (s : State) : (rOpen b n s).dstLen = s.dstLen := rfl
@[simp] theorem rOpen_dstValid (b : Word) (n : Nat) (s : State) : (rOpen b n s).dstValid = s.dstValid := rfl
@[simp] theorem rOpen_mem (b : Word) (n : Nat) (s : State) : (rOpen b n s).mem = s.mem := rfl
@[simp] theorem rOpen_freeCtr (b : Word) (n : Nat) (s : State) : (rOpen b n s).freeCtr = s.freeCtr := rfl
@[simp] theorem rOpen_host (b : Word) (n : Nat) (s : State) : (rOpen b n s).host = s.host := rfl

/-! ### closeReader -/

@[simp] theorem closeReader_cfg (s : State) : (closeReader s).cfg = s.cfg := rfl
@[simp] theorem closeReader_phase (s : State) : (closeReader s).phase = s.phase := rfl
@[simp] theorem closeReader_ie (s : State) : (closeReader s).ie = s.ie := rfl
@[simp] theorem closeReader_done (s : State) : (closeReader s).done = s.done := rfl
@[simp] theorem closeReader_err (s : State) : (closeReader s).err = s.err := rfl
@[simp] theorem closeReader_ovr (s : State) : (closeReader s).ovr = s.ovr := rfl
@[simp] theorem closeReader_errcode (s : State) : (closeReader s).errcode = s.errcode := rfl
@[simp] theorem closeReader_errAddr (s : State) : (closeReader s).errAddr = s.errAddr := rfl
@[simp] theorem closeReader_errInfo (s : State) : (closeReader s).errInfo = s.errInfo := rfl
@[simp] theorem closeReader_inAddr (s : State) : (closeReader s).inAddr = s.inAddr := rfl
@[simp] theorem closeReader_inLen (s : State) : (closeReader s).inLen = s.inLen := rfl
@[simp] theorem closeReader_outAddr (s : State) : (closeReader s).outAddr = s.outAddr := rfl
@[simp] theorem closeReader_srcAddr (s : State) : (closeReader s).srcAddr = s.srcAddr := rfl
@[simp] theorem closeReader_srcBits (s : State) : (closeReader s).srcBits = s.srcBits := rfl
@[simp] theorem closeReader_dstAddr (s : State) : (closeReader s).dstAddr = s.dstAddr := rfl
@[simp] theorem closeReader_hsel (s : State) : (closeReader s).hsel = s.hsel := rfl
@[simp] theorem closeReader_csel (s : State) : (closeReader s).csel = s.csel := rfl
@[simp] theorem closeReader_cwsel (s : State) : (closeReader s).cwsel = s.cwsel := rfl
@[simp] theorem closeReader_nsel (s : State) : (closeReader s).nsel = s.nsel := rfl
@[simp] theorem closeReader_hist (s : State) : (closeReader s).hist = s.hist := rfl
@[simp] theorem closeReader_tree (s : State) : (closeReader s).tree = s.tree := rfl
@[simp] theorem closeReader_ct (s : State) : (closeReader s).ct = s.ct := rfl
@[simp] theorem closeReader_wr (s : State) : (closeReader s).wr = s.wr := rfl
@[simp] theorem closeReader_rd (s : State) : (closeReader s).rd = { s.rd with ropen := false } := rfl
@[simp] theorem closeReader_dstLen (s : State) : (closeReader s).dstLen = s.dstLen := rfl
@[simp] theorem closeReader_dstValid (s : State) : (closeReader s).dstValid = s.dstValid := rfl
@[simp] theorem closeReader_mem (s : State) : (closeReader s).mem = s.mem := rfl
@[simp] theorem closeReader_freeCtr (s : State) : (closeReader s).freeCtr = s.freeCtr := rfl
@[simp] theorem closeReader_host (s : State) : (closeReader s).host = s.host := rfl

/-! ### closeDecoder -/

@[simp] theorem closeDecoder_cfg (s : State) : (closeDecoder s).cfg = s.cfg := rfl
@[simp] theorem closeDecoder_phase (s : State) : (closeDecoder s).phase = s.phase := rfl
@[simp] theorem closeDecoder_ie (s : State) : (closeDecoder s).ie = s.ie := rfl
@[simp] theorem closeDecoder_done (s : State) : (closeDecoder s).done = s.done := rfl
@[simp] theorem closeDecoder_err (s : State) : (closeDecoder s).err = s.err := rfl
@[simp] theorem closeDecoder_ovr (s : State) : (closeDecoder s).ovr = s.ovr := rfl
@[simp] theorem closeDecoder_errcode (s : State) : (closeDecoder s).errcode = s.errcode := rfl
@[simp] theorem closeDecoder_errAddr (s : State) : (closeDecoder s).errAddr = s.errAddr := rfl
@[simp] theorem closeDecoder_errInfo (s : State) : (closeDecoder s).errInfo = s.errInfo := rfl
@[simp] theorem closeDecoder_inAddr (s : State) : (closeDecoder s).inAddr = s.inAddr := rfl
@[simp] theorem closeDecoder_inLen (s : State) : (closeDecoder s).inLen = s.inLen := rfl
@[simp] theorem closeDecoder_outAddr (s : State) : (closeDecoder s).outAddr = s.outAddr := rfl
@[simp] theorem closeDecoder_srcAddr (s : State) : (closeDecoder s).srcAddr = s.srcAddr := rfl
@[simp] theorem closeDecoder_srcBits (s : State) : (closeDecoder s).srcBits = s.srcBits := rfl
@[simp] theorem closeDecoder_dstAddr (s : State) : (closeDecoder s).dstAddr = s.dstAddr := rfl
@[simp] theorem closeDecoder_hsel (s : State) : (closeDecoder s).hsel = s.hsel := rfl
@[simp] theorem closeDecoder_csel (s : State) : (closeDecoder s).csel = s.csel := rfl
@[simp] theorem closeDecoder_cwsel (s : State) : (closeDecoder s).cwsel = s.cwsel := rfl
@[simp] theorem closeDecoder_nsel (s : State) : (closeDecoder s).nsel = s.nsel := rfl
@[simp] theorem closeDecoder_hist (s : State) : (closeDecoder s).hist = s.hist := rfl
@[simp] theorem closeDecoder_tree (s : State) : (closeDecoder s).tree = s.tree := rfl
@[simp] theorem closeDecoder_ct (s : State) : (closeDecoder s).ct = s.ct := rfl
@[simp] theorem closeDecoder_wr (s : State) : (closeDecoder s).wr = s.wr := rfl
@[simp] theorem closeDecoder_rd (s : State) : (closeDecoder s).rd = { s.rd with ropen := false } := rfl
@[simp] theorem closeDecoder_dstLen (s : State) : (closeDecoder s).dstLen = s.dstLen := rfl
@[simp] theorem closeDecoder_dstValid (s : State) : (closeDecoder s).dstValid = true := rfl
@[simp] theorem closeDecoder_mem (s : State) : (closeDecoder s).mem = s.mem := rfl
@[simp] theorem closeDecoder_freeCtr (s : State) : (closeDecoder s).freeCtr = s.freeCtr := rfl
@[simp] theorem closeDecoder_host (s : State) : (closeDecoder s).host = s.host := rfl

/-! ### clearInternal -/

@[simp] theorem clearInternal_cfg (s : State) : (clearInternal s).cfg = s.cfg := rfl
@[simp] theorem clearInternal_phase (s : State) : (clearInternal s).phase = s.phase := rfl
@[simp] theorem clearInternal_ie (s : State) : (clearInternal s).ie = s.ie := rfl
@[simp] theorem clearInternal_done (s : State) : (clearInternal s).done = s.done := rfl
@[simp] theorem clearInternal_err (s : State) : (clearInternal s).err = s.err := rfl
@[simp] theorem clearInternal_ovr (s : State) : (clearInternal s).ovr = s.ovr := rfl
@[simp] theorem clearInternal_errcode (s : State) : (clearInternal s).errcode = s.errcode := rfl
@[simp] theorem clearInternal_errAddr (s : State) : (clearInternal s).errAddr = s.errAddr := rfl
@[simp] theorem clearInternal_errInfo (s : State) : (clearInternal s).errInfo = s.errInfo := rfl
@[simp] theorem clearInternal_inAddr (s : State) : (clearInternal s).inAddr = s.inAddr := rfl
@[simp] theorem clearInternal_inLen (s : State) : (clearInternal s).inLen = s.inLen := rfl
@[simp] theorem clearInternal_outAddr (s : State) : (clearInternal s).outAddr = s.outAddr := rfl
@[simp] theorem clearInternal_srcAddr (s : State) : (clearInternal s).srcAddr = s.srcAddr := rfl
@[simp] theorem clearInternal_srcBits (s : State) : (clearInternal s).srcBits = s.srcBits := rfl
@[simp] theorem clearInternal_dstAddr (s : State) : (clearInternal s).dstAddr = s.dstAddr := rfl
@[simp] theorem clearInternal_hsel (s : State) : (clearInternal s).hsel = s.hsel := rfl
@[simp] theorem clearInternal_csel (s : State) : (clearInternal s).csel = s.csel := rfl
@[simp] theorem clearInternal_cwsel (s : State) : (clearInternal s).cwsel = s.cwsel := rfl
@[simp] theorem clearInternal_nsel (s : State) : (clearInternal s).nsel = s.nsel := rfl
@[simp] theorem clearInternal_hist (s : State) : (clearInternal s).hist = [] := rfl
@[simp] theorem clearInternal_tree (s : State) : (clearInternal s).tree = Tree.reset := rfl
@[simp] theorem clearInternal_ct (s : State) : (clearInternal s).ct = [] := rfl
@[simp] theorem clearInternal_wr (s : State) : (clearInternal s).wr = Writer.reset := rfl
@[simp] theorem clearInternal_rd (s : State) : (clearInternal s).rd = Reader.reset := rfl
@[simp] theorem clearInternal_dstLen (s : State) : (clearInternal s).dstLen = 0 := rfl
@[simp] theorem clearInternal_dstValid (s : State) : (clearInternal s).dstValid = false := rfl
@[simp] theorem clearInternal_mem (s : State) : (clearInternal s).mem = s.mem := rfl
@[simp] theorem clearInternal_freeCtr (s : State) : (clearInternal s).freeCtr = s.freeCtr := rfl
@[simp] theorem clearInternal_host (s : State) : (clearInternal s).host = s.host := rfl

/-! ### accept -/

@[simp] theorem accept_cfg (c : Word) (s : State) : (accept c s).cfg = s.cfg := rfl
@[simp] theorem accept_phase (c : Word) (s : State) : (accept c s).phase = .running c := rfl
@[simp] theorem accept_ie (c : Word) (s : State) : (accept c s).ie = s.ie := rfl
@[simp] theorem accept_done (c : Word) (s : State) : (accept c s).done = false := rfl
@[simp] theorem accept_err (c : Word) (s : State) : (accept c s).err = false := rfl
@[simp] theorem accept_ovr (c : Word) (s : State) : (accept c s).ovr = s.ovr := rfl
@[simp] theorem accept_errcode (c : Word) (s : State) : (accept c s).errcode = .none := rfl
@[simp] theorem accept_errAddr (c : Word) (s : State) : (accept c s).errAddr = 0 := rfl
@[simp] theorem accept_errInfo (c : Word) (s : State) : (accept c s).errInfo = 0 := rfl
@[simp] theorem accept_inAddr (c : Word) (s : State) : (accept c s).inAddr = s.inAddr := rfl
@[simp] theorem accept_inLen (c : Word) (s : State) : (accept c s).inLen = s.inLen := rfl
@[simp] theorem accept_outAddr (c : Word) (s : State) : (accept c s).outAddr = s.outAddr := rfl
@[simp] theorem accept_srcAddr (c : Word) (s : State) : (accept c s).srcAddr = s.srcAddr := rfl
@[simp] theorem accept_srcBits (c : Word) (s : State) : (accept c s).srcBits = s.srcBits := rfl
@[simp] theorem accept_dstAddr (c : Word) (s : State) : (accept c s).dstAddr = s.dstAddr := rfl
@[simp] theorem accept_hsel (c : Word) (s : State) : (accept c s).hsel = s.hsel := rfl
@[simp] theorem accept_csel (c : Word) (s : State) : (accept c s).csel = s.csel := rfl
@[simp] theorem accept_cwsel (c : Word) (s : State) : (accept c s).cwsel = s.cwsel := rfl
@[simp] theorem accept_nsel (c : Word) (s : State) : (accept c s).nsel = s.nsel := rfl
@[simp] theorem accept_hist (c : Word) (s : State) : (accept c s).hist = s.hist := rfl
@[simp] theorem accept_tree (c : Word) (s : State) : (accept c s).tree = s.tree := rfl
@[simp] theorem accept_ct (c : Word) (s : State) : (accept c s).ct = s.ct := rfl
@[simp] theorem accept_wr (c : Word) (s : State) : (accept c s).wr = s.wr := rfl
@[simp] theorem accept_rd (c : Word) (s : State) : (accept c s).rd = s.rd := rfl
@[simp] theorem accept_dstLen (c : Word) (s : State) : (accept c s).dstLen = s.dstLen := rfl
@[simp] theorem accept_dstValid (c : Word) (s : State) : (accept c s).dstValid = s.dstValid := rfl
@[simp] theorem accept_mem (c : Word) (s : State) : (accept c s).mem = s.mem := rfl
@[simp] theorem accept_freeCtr (c : Word) (s : State) : (accept c s).freeCtr = s.freeCtr := rfl
@[simp] theorem accept_host (c : Word) (s : State) : (accept c s).host = { s.host with unseen := true, guard := wordFootprint c s ++ s.host.guard } := rfl

/-! ### writeStatus -/

@[simp] theorem writeStatus_cfg (v : Word) (s : State) : (writeStatus v s).cfg = s.cfg := rfl
@[simp] theorem writeStatus_phase (v : Word) (s : State) : (writeStatus v s).phase = s.phase := rfl
@[simp] theorem writeStatus_ie (v : Word) (s : State) : (writeStatus v s).ie = s.ie := rfl
@[simp] theorem writeStatus_done (v : Word) (s : State) : (writeStatus v s).done = (s.done && !v.getLsbD 1) := rfl
@[simp] theorem writeStatus_err (v : Word) (s : State) : (writeStatus v s).err = s.err := rfl
@[simp] theorem writeStatus_ovr (v : Word) (s : State) : (writeStatus v s).ovr = (s.ovr && !v.getLsbD 3) := rfl
@[simp] theorem writeStatus_errcode (v : Word) (s : State) : (writeStatus v s).errcode = s.errcode := rfl
@[simp] theorem writeStatus_errAddr (v : Word) (s : State) : (writeStatus v s).errAddr = s.errAddr := rfl
@[simp] theorem writeStatus_errInfo (v : Word) (s : State) : (writeStatus v s).errInfo = s.errInfo := rfl
@[simp] theorem writeStatus_inAddr (v : Word) (s : State) : (writeStatus v s).inAddr = s.inAddr := rfl
@[simp] theorem writeStatus_inLen (v : Word) (s : State) : (writeStatus v s).inLen = s.inLen := rfl
@[simp] theorem writeStatus_outAddr (v : Word) (s : State) : (writeStatus v s).outAddr = s.outAddr := rfl
@[simp] theorem writeStatus_srcAddr (v : Word) (s : State) : (writeStatus v s).srcAddr = s.srcAddr := rfl
@[simp] theorem writeStatus_srcBits (v : Word) (s : State) : (writeStatus v s).srcBits = s.srcBits := rfl
@[simp] theorem writeStatus_dstAddr (v : Word) (s : State) : (writeStatus v s).dstAddr = s.dstAddr := rfl
@[simp] theorem writeStatus_hsel (v : Word) (s : State) : (writeStatus v s).hsel = s.hsel := rfl
@[simp] theorem writeStatus_csel (v : Word) (s : State) : (writeStatus v s).csel = s.csel := rfl
@[simp] theorem writeStatus_cwsel (v : Word) (s : State) : (writeStatus v s).cwsel = s.cwsel := rfl
@[simp] theorem writeStatus_nsel (v : Word) (s : State) : (writeStatus v s).nsel = s.nsel := rfl
@[simp] theorem writeStatus_hist (v : Word) (s : State) : (writeStatus v s).hist = s.hist := rfl
@[simp] theorem writeStatus_tree (v : Word) (s : State) : (writeStatus v s).tree = s.tree := rfl
@[simp] theorem writeStatus_ct (v : Word) (s : State) : (writeStatus v s).ct = s.ct := rfl
@[simp] theorem writeStatus_wr (v : Word) (s : State) : (writeStatus v s).wr = s.wr := rfl
@[simp] theorem writeStatus_rd (v : Word) (s : State) : (writeStatus v s).rd = s.rd := rfl
@[simp] theorem writeStatus_dstLen (v : Word) (s : State) : (writeStatus v s).dstLen = s.dstLen := rfl
@[simp] theorem writeStatus_dstValid (v : Word) (s : State) : (writeStatus v s).dstValid = s.dstValid := rfl
@[simp] theorem writeStatus_mem (v : Word) (s : State) : (writeStatus v s).mem = s.mem := rfl
@[simp] theorem writeStatus_freeCtr (v : Word) (s : State) : (writeStatus v s).freeCtr = s.freeCtr := rfl
@[simp] theorem writeStatus_host (v : Word) (s : State) : (writeStatus v s).host = s.host := rfl

/-! ### writeCtrl -/

@[simp] theorem writeCtrl_cfg (v : Word) (s : State) : (writeCtrl v s).cfg = s.cfg := rfl
@[simp] theorem writeCtrl_phase (v : Word) (s : State) : (writeCtrl v s).phase = s.phase := rfl
@[simp] theorem writeCtrl_ie (v : Word) (s : State) : (writeCtrl v s).ie = v.getLsbD 0 := rfl
@[simp] theorem writeCtrl_done (v : Word) (s : State) : (writeCtrl v s).done = s.done := rfl
@[simp] theorem writeCtrl_err (v : Word) (s : State) : (writeCtrl v s).err = s.err := rfl
@[simp] theorem writeCtrl_ovr (v : Word) (s : State) : (writeCtrl v s).ovr = s.ovr := rfl
@[simp] theorem writeCtrl_errcode (v : Word) (s : State) : (writeCtrl v s).errcode = s.errcode := rfl
@[simp] theorem writeCtrl_errAddr (v : Word) (s : State) : (writeCtrl v s).errAddr = s.errAddr := rfl
@[simp] theorem writeCtrl_errInfo (v : Word) (s : State) : (writeCtrl v s).errInfo = s.errInfo := rfl
@[simp] theorem writeCtrl_inAddr (v : Word) (s : State) : (writeCtrl v s).inAddr = s.inAddr := rfl
@[simp] theorem writeCtrl_inLen (v : Word) (s : State) : (writeCtrl v s).inLen = s.inLen := rfl
@[simp] theorem writeCtrl_outAddr (v : Word) (s : State) : (writeCtrl v s).outAddr = s.outAddr := rfl
@[simp] theorem writeCtrl_srcAddr (v : Word) (s : State) : (writeCtrl v s).srcAddr = s.srcAddr := rfl
@[simp] theorem writeCtrl_srcBits (v : Word) (s : State) : (writeCtrl v s).srcBits = s.srcBits := rfl
@[simp] theorem writeCtrl_dstAddr (v : Word) (s : State) : (writeCtrl v s).dstAddr = s.dstAddr := rfl
@[simp] theorem writeCtrl_hsel (v : Word) (s : State) : (writeCtrl v s).hsel = s.hsel := rfl
@[simp] theorem writeCtrl_csel (v : Word) (s : State) : (writeCtrl v s).csel = s.csel := rfl
@[simp] theorem writeCtrl_cwsel (v : Word) (s : State) : (writeCtrl v s).cwsel = s.cwsel := rfl
@[simp] theorem writeCtrl_nsel (v : Word) (s : State) : (writeCtrl v s).nsel = s.nsel := rfl
@[simp] theorem writeCtrl_hist (v : Word) (s : State) : (writeCtrl v s).hist = s.hist := rfl
@[simp] theorem writeCtrl_tree (v : Word) (s : State) : (writeCtrl v s).tree = s.tree := rfl
@[simp] theorem writeCtrl_ct (v : Word) (s : State) : (writeCtrl v s).ct = s.ct := rfl
@[simp] theorem writeCtrl_wr (v : Word) (s : State) : (writeCtrl v s).wr = s.wr := rfl
@[simp] theorem writeCtrl_rd (v : Word) (s : State) : (writeCtrl v s).rd = s.rd := rfl
@[simp] theorem writeCtrl_dstLen (v : Word) (s : State) : (writeCtrl v s).dstLen = s.dstLen := rfl
@[simp] theorem writeCtrl_dstValid (v : Word) (s : State) : (writeCtrl v s).dstValid = s.dstValid := rfl
@[simp] theorem writeCtrl_mem (v : Word) (s : State) : (writeCtrl v s).mem = s.mem := rfl
@[simp] theorem writeCtrl_freeCtr (v : Word) (s : State) : (writeCtrl v s).freeCtr = s.freeCtr := rfl
@[simp] theorem writeCtrl_host (v : Word) (s : State) : (writeCtrl v s).host = s.host := rfl

/-! ### hostSees -/

@[simp] theorem hostSees_cfg (s : State) : (hostSees s).cfg = s.cfg := rfl
@[simp] theorem hostSees_phase (s : State) : (hostSees s).phase = s.phase := rfl
@[simp] theorem hostSees_ie (s : State) : (hostSees s).ie = s.ie := rfl
@[simp] theorem hostSees_done (s : State) : (hostSees s).done = s.done := rfl
@[simp] theorem hostSees_err (s : State) : (hostSees s).err = s.err := rfl
@[simp] theorem hostSees_ovr (s : State) : (hostSees s).ovr = s.ovr := rfl
@[simp] theorem hostSees_errcode (s : State) : (hostSees s).errcode = s.errcode := rfl
@[simp] theorem hostSees_errAddr (s : State) : (hostSees s).errAddr = s.errAddr := rfl
@[simp] theorem hostSees_errInfo (s : State) : (hostSees s).errInfo = s.errInfo := rfl
@[simp] theorem hostSees_inAddr (s : State) : (hostSees s).inAddr = s.inAddr := rfl
@[simp] theorem hostSees_inLen (s : State) : (hostSees s).inLen = s.inLen := rfl
@[simp] theorem hostSees_outAddr (s : State) : (hostSees s).outAddr = s.outAddr := rfl
@[simp] theorem hostSees_srcAddr (s : State) : (hostSees s).srcAddr = s.srcAddr := rfl
@[simp] theorem hostSees_srcBits (s : State) : (hostSees s).srcBits = s.srcBits := rfl
@[simp] theorem hostSees_dstAddr (s : State) : (hostSees s).dstAddr = s.dstAddr := rfl
@[simp] theorem hostSees_hsel (s : State) : (hostSees s).hsel = s.hsel := rfl
@[simp] theorem hostSees_csel (s : State) : (hostSees s).csel = s.csel := rfl
@[simp] theorem hostSees_cwsel (s : State) : (hostSees s).cwsel = s.cwsel := rfl
@[simp] theorem hostSees_nsel (s : State) : (hostSees s).nsel = s.nsel := rfl
@[simp] theorem hostSees_hist (s : State) : (hostSees s).hist = s.hist := rfl
@[simp] theorem hostSees_tree (s : State) : (hostSees s).tree = s.tree := rfl
@[simp] theorem hostSees_ct (s : State) : (hostSees s).ct = s.ct := rfl
@[simp] theorem hostSees_wr (s : State) : (hostSees s).wr = s.wr := rfl
@[simp] theorem hostSees_rd (s : State) : (hostSees s).rd = s.rd := rfl
@[simp] theorem hostSees_dstLen (s : State) : (hostSees s).dstLen = s.dstLen := rfl
@[simp] theorem hostSees_dstValid (s : State) : (hostSees s).dstValid = s.dstValid := rfl
@[simp] theorem hostSees_mem (s : State) : (hostSees s).mem = s.mem := rfl
@[simp] theorem hostSees_freeCtr (s : State) : (hostSees s).freeCtr = s.freeCtr := rfl
@[simp] theorem hostSees_host (s : State) : (hostSees s).host = { s.host with unseen := false, guard := [] } := rfl

/-! ### gotoStmt -/

@[simp] theorem gotoStmt_cfg (n : Nat) (s : State) : (gotoStmt n s).cfg = s.cfg := rfl
@[simp] theorem gotoStmt_phase (n : Nat) (s : State) : (gotoStmt n s).phase = s.phase := rfl
@[simp] theorem gotoStmt_ie (n : Nat) (s : State) : (gotoStmt n s).ie = s.ie := rfl
@[simp] theorem gotoStmt_done (n : Nat) (s : State) : (gotoStmt n s).done = s.done := rfl
@[simp] theorem gotoStmt_err (n : Nat) (s : State) : (gotoStmt n s).err = s.err := rfl
@[simp] theorem gotoStmt_ovr (n : Nat) (s : State) : (gotoStmt n s).ovr = s.ovr := rfl
@[simp] theorem gotoStmt_errcode (n : Nat) (s : State) : (gotoStmt n s).errcode = s.errcode := rfl
@[simp] theorem gotoStmt_errAddr (n : Nat) (s : State) : (gotoStmt n s).errAddr = s.errAddr := rfl
@[simp] theorem gotoStmt_errInfo (n : Nat) (s : State) : (gotoStmt n s).errInfo = s.errInfo := rfl
@[simp] theorem gotoStmt_inAddr (n : Nat) (s : State) : (gotoStmt n s).inAddr = s.inAddr := rfl
@[simp] theorem gotoStmt_inLen (n : Nat) (s : State) : (gotoStmt n s).inLen = s.inLen := rfl
@[simp] theorem gotoStmt_outAddr (n : Nat) (s : State) : (gotoStmt n s).outAddr = s.outAddr := rfl
@[simp] theorem gotoStmt_srcAddr (n : Nat) (s : State) : (gotoStmt n s).srcAddr = s.srcAddr := rfl
@[simp] theorem gotoStmt_srcBits (n : Nat) (s : State) : (gotoStmt n s).srcBits = s.srcBits := rfl
@[simp] theorem gotoStmt_dstAddr (n : Nat) (s : State) : (gotoStmt n s).dstAddr = s.dstAddr := rfl
@[simp] theorem gotoStmt_hsel (n : Nat) (s : State) : (gotoStmt n s).hsel = s.hsel := rfl
@[simp] theorem gotoStmt_csel (n : Nat) (s : State) : (gotoStmt n s).csel = s.csel := rfl
@[simp] theorem gotoStmt_cwsel (n : Nat) (s : State) : (gotoStmt n s).cwsel = s.cwsel := rfl
@[simp] theorem gotoStmt_nsel (n : Nat) (s : State) : (gotoStmt n s).nsel = s.nsel := rfl
@[simp] theorem gotoStmt_hist (n : Nat) (s : State) : (gotoStmt n s).hist = s.hist := rfl
@[simp] theorem gotoStmt_tree (n : Nat) (s : State) : (gotoStmt n s).tree = s.tree := rfl
@[simp] theorem gotoStmt_ct (n : Nat) (s : State) : (gotoStmt n s).ct = s.ct := rfl
@[simp] theorem gotoStmt_wr (n : Nat) (s : State) : (gotoStmt n s).wr = s.wr := rfl
@[simp] theorem gotoStmt_rd (n : Nat) (s : State) : (gotoStmt n s).rd = s.rd := rfl
@[simp] theorem gotoStmt_dstLen (n : Nat) (s : State) : (gotoStmt n s).dstLen = s.dstLen := rfl
@[simp] theorem gotoStmt_dstValid (n : Nat) (s : State) : (gotoStmt n s).dstValid = s.dstValid := rfl
@[simp] theorem gotoStmt_mem (n : Nat) (s : State) : (gotoStmt n s).mem = s.mem := rfl
@[simp] theorem gotoStmt_freeCtr (n : Nat) (s : State) : (gotoStmt n s).freeCtr = s.freeCtr := rfl
@[simp] theorem gotoStmt_host (n : Nat) (s : State) : (gotoStmt n s).host = { s.host with pc := n } := rfl

/-! ### nextStmt -/

@[simp] theorem nextStmt_cfg (s : State) : (nextStmt s).cfg = s.cfg := rfl
@[simp] theorem nextStmt_phase (s : State) : (nextStmt s).phase = s.phase := rfl
@[simp] theorem nextStmt_ie (s : State) : (nextStmt s).ie = s.ie := rfl
@[simp] theorem nextStmt_done (s : State) : (nextStmt s).done = s.done := rfl
@[simp] theorem nextStmt_err (s : State) : (nextStmt s).err = s.err := rfl
@[simp] theorem nextStmt_ovr (s : State) : (nextStmt s).ovr = s.ovr := rfl
@[simp] theorem nextStmt_errcode (s : State) : (nextStmt s).errcode = s.errcode := rfl
@[simp] theorem nextStmt_errAddr (s : State) : (nextStmt s).errAddr = s.errAddr := rfl
@[simp] theorem nextStmt_errInfo (s : State) : (nextStmt s).errInfo = s.errInfo := rfl
@[simp] theorem nextStmt_inAddr (s : State) : (nextStmt s).inAddr = s.inAddr := rfl
@[simp] theorem nextStmt_inLen (s : State) : (nextStmt s).inLen = s.inLen := rfl
@[simp] theorem nextStmt_outAddr (s : State) : (nextStmt s).outAddr = s.outAddr := rfl
@[simp] theorem nextStmt_srcAddr (s : State) : (nextStmt s).srcAddr = s.srcAddr := rfl
@[simp] theorem nextStmt_srcBits (s : State) : (nextStmt s).srcBits = s.srcBits := rfl
@[simp] theorem nextStmt_dstAddr (s : State) : (nextStmt s).dstAddr = s.dstAddr := rfl
@[simp] theorem nextStmt_hsel (s : State) : (nextStmt s).hsel = s.hsel := rfl
@[simp] theorem nextStmt_csel (s : State) : (nextStmt s).csel = s.csel := rfl
@[simp] theorem nextStmt_cwsel (s : State) : (nextStmt s).cwsel = s.cwsel := rfl
@[simp] theorem nextStmt_nsel (s : State) : (nextStmt s).nsel = s.nsel := rfl
@[simp] theorem nextStmt_hist (s : State) : (nextStmt s).hist = s.hist := rfl
@[simp] theorem nextStmt_tree (s : State) : (nextStmt s).tree = s.tree := rfl
@[simp] theorem nextStmt_ct (s : State) : (nextStmt s).ct = s.ct := rfl
@[simp] theorem nextStmt_wr (s : State) : (nextStmt s).wr = s.wr := rfl
@[simp] theorem nextStmt_rd (s : State) : (nextStmt s).rd = s.rd := rfl
@[simp] theorem nextStmt_dstLen (s : State) : (nextStmt s).dstLen = s.dstLen := rfl
@[simp] theorem nextStmt_dstValid (s : State) : (nextStmt s).dstValid = s.dstValid := rfl
@[simp] theorem nextStmt_mem (s : State) : (nextStmt s).mem = s.mem := rfl
@[simp] theorem nextStmt_freeCtr (s : State) : (nextStmt s).freeCtr = s.freeCtr := rfl
@[simp] theorem nextStmt_host (s : State) : (nextStmt s).host = { s.host with pc := s.host.pc + 1 } := rfl

/-! ### hostCheck -/

@[simp] theorem hostCheck_cfg (v : Word) (s : State) : (hostCheck v s).cfg = s.cfg := rfl
@[simp] theorem hostCheck_phase (v : Word) (s : State) : (hostCheck v s).phase = s.phase := rfl
@[simp] theorem hostCheck_ie (v : Word) (s : State) : (hostCheck v s).ie = s.ie := rfl
@[simp] theorem hostCheck_done (v : Word) (s : State) : (hostCheck v s).done = s.done := rfl
@[simp] theorem hostCheck_err (v : Word) (s : State) : (hostCheck v s).err = s.err := rfl
@[simp] theorem hostCheck_ovr (v : Word) (s : State) : (hostCheck v s).ovr = s.ovr := rfl
@[simp] theorem hostCheck_errcode (v : Word) (s : State) : (hostCheck v s).errcode = s.errcode := rfl
@[simp] theorem hostCheck_errAddr (v : Word) (s : State) : (hostCheck v s).errAddr = s.errAddr := rfl
@[simp] theorem hostCheck_errInfo (v : Word) (s : State) : (hostCheck v s).errInfo = s.errInfo := rfl
@[simp] theorem hostCheck_inAddr (v : Word) (s : State) : (hostCheck v s).inAddr = s.inAddr := rfl
@[simp] theorem hostCheck_inLen (v : Word) (s : State) : (hostCheck v s).inLen = s.inLen := rfl
@[simp] theorem hostCheck_outAddr (v : Word) (s : State) : (hostCheck v s).outAddr = s.outAddr := rfl
@[simp] theorem hostCheck_srcAddr (v : Word) (s : State) : (hostCheck v s).srcAddr = s.srcAddr := rfl
@[simp] theorem hostCheck_srcBits (v : Word) (s : State) : (hostCheck v s).srcBits = s.srcBits := rfl
@[simp] theorem hostCheck_dstAddr (v : Word) (s : State) : (hostCheck v s).dstAddr = s.dstAddr := rfl
@[simp] theorem hostCheck_hsel (v : Word) (s : State) : (hostCheck v s).hsel = s.hsel := rfl
@[simp] theorem hostCheck_csel (v : Word) (s : State) : (hostCheck v s).csel = s.csel := rfl
@[simp] theorem hostCheck_cwsel (v : Word) (s : State) : (hostCheck v s).cwsel = s.cwsel := rfl
@[simp] theorem hostCheck_nsel (v : Word) (s : State) : (hostCheck v s).nsel = s.nsel := rfl
@[simp] theorem hostCheck_hist (v : Word) (s : State) : (hostCheck v s).hist = s.hist := rfl
@[simp] theorem hostCheck_tree (v : Word) (s : State) : (hostCheck v s).tree = s.tree := rfl
@[simp] theorem hostCheck_ct (v : Word) (s : State) : (hostCheck v s).ct = s.ct := rfl
@[simp] theorem hostCheck_wr (v : Word) (s : State) : (hostCheck v s).wr = s.wr := rfl
@[simp] theorem hostCheck_rd (v : Word) (s : State) : (hostCheck v s).rd = s.rd := rfl
@[simp] theorem hostCheck_dstLen (v : Word) (s : State) : (hostCheck v s).dstLen = s.dstLen := rfl
@[simp] theorem hostCheck_dstValid (v : Word) (s : State) : (hostCheck v s).dstValid = s.dstValid := rfl
@[simp] theorem hostCheck_mem (v : Word) (s : State) : (hostCheck v s).mem = s.mem := rfl
@[simp] theorem hostCheck_freeCtr (v : Word) (s : State) : (hostCheck v s).freeCtr = s.freeCtr := rfl
@[simp] theorem hostCheck_host (v : Word) (s : State) : (hostCheck v s).host = { s.host with checksOk := s.host.checksOk && s.host.rdata == v } := rfl

/-! ### Reset -/

@[simp] theorem resetRegs_cfg (p : Phase) (s : State) : (resetRegs p s).cfg = s.cfg := rfl
@[simp] theorem resetRegs_phase (p : Phase) (s : State) : (resetRegs p s).phase = p := rfl
@[simp] theorem resetRegs_ie (p : Phase) (s : State) : (resetRegs p s).ie = State.reset.ie := rfl
@[simp] theorem resetRegs_done (p : Phase) (s : State) : (resetRegs p s).done = State.reset.done := rfl
@[simp] theorem resetRegs_err (p : Phase) (s : State) : (resetRegs p s).err = State.reset.err := rfl
@[simp] theorem resetRegs_ovr (p : Phase) (s : State) : (resetRegs p s).ovr = State.reset.ovr := rfl
@[simp] theorem resetRegs_errcode (p : Phase) (s : State) : (resetRegs p s).errcode = State.reset.errcode := rfl
@[simp] theorem resetRegs_errAddr (p : Phase) (s : State) : (resetRegs p s).errAddr = State.reset.errAddr := rfl
@[simp] theorem resetRegs_errInfo (p : Phase) (s : State) : (resetRegs p s).errInfo = State.reset.errInfo := rfl
@[simp] theorem resetRegs_inAddr (p : Phase) (s : State) : (resetRegs p s).inAddr = State.reset.inAddr := rfl
@[simp] theorem resetRegs_inLen (p : Phase) (s : State) : (resetRegs p s).inLen = State.reset.inLen := rfl
@[simp] theorem resetRegs_outAddr (p : Phase) (s : State) : (resetRegs p s).outAddr = State.reset.outAddr := rfl
@[simp] theorem resetRegs_srcAddr (p : Phase) (s : State) : (resetRegs p s).srcAddr = State.reset.srcAddr := rfl
@[simp] theorem resetRegs_srcBits (p : Phase) (s : State) : (resetRegs p s).srcBits = State.reset.srcBits := rfl
@[simp] theorem resetRegs_dstAddr (p : Phase) (s : State) : (resetRegs p s).dstAddr = State.reset.dstAddr := rfl
@[simp] theorem resetRegs_hsel (p : Phase) (s : State) : (resetRegs p s).hsel = State.reset.hsel := rfl
@[simp] theorem resetRegs_csel (p : Phase) (s : State) : (resetRegs p s).csel = State.reset.csel := rfl
@[simp] theorem resetRegs_cwsel (p : Phase) (s : State) : (resetRegs p s).cwsel = State.reset.cwsel := rfl
@[simp] theorem resetRegs_nsel (p : Phase) (s : State) : (resetRegs p s).nsel = State.reset.nsel := rfl
@[simp] theorem resetRegs_hist (p : Phase) (s : State) : (resetRegs p s).hist = State.reset.hist := rfl
@[simp] theorem resetRegs_tree (p : Phase) (s : State) : (resetRegs p s).tree = State.reset.tree := rfl
@[simp] theorem resetRegs_ct (p : Phase) (s : State) : (resetRegs p s).ct = State.reset.ct := rfl
@[simp] theorem resetRegs_wr (p : Phase) (s : State) : (resetRegs p s).wr = State.reset.wr := rfl
@[simp] theorem resetRegs_rd (p : Phase) (s : State) : (resetRegs p s).rd = State.reset.rd := rfl
@[simp] theorem resetRegs_dstLen (p : Phase) (s : State) : (resetRegs p s).dstLen = State.reset.dstLen := rfl
@[simp] theorem resetRegs_dstValid (p : Phase) (s : State) : (resetRegs p s).dstValid = State.reset.dstValid := rfl
@[simp] theorem resetRegs_mem (p : Phase) (s : State) : (resetRegs p s).mem = s.mem := rfl
@[simp] theorem resetRegs_freeCtr (p : Phase) (s : State) : (resetRegs p s).freeCtr = s.freeCtr := rfl
@[simp] theorem resetRegs_host (p : Phase) (s : State) : (resetRegs p s).host = s.host := rfl

end Sys2Proof.Machine
end

