-- ==== Sys2Proof/Laws/Memory.lean ====
section
/-! SUPPORT. The laws of the data memory: every operation on it keeps the canonical form, what a write changes and
what it leaves, and what the two primitives of 20_memory.md R103 can do. -/

namespace Sys2Proof.Machine

/-! ### One byte -/

theorem Memory.read_write_same (m : Memory) (hw : Memory.wf m) (a : Nat) (v : Byte) : (m.write a v).read a = v :=
  Sparse.get_set_same Memory.unlisted m hw a v

theorem Memory.read_write_other (m : Memory) (a b : Nat) (v : Byte) (h : b ≠ a) : (m.write a v).read b = m.read b :=
  Sparse.get_set_other Memory.unlisted m a b v h

theorem Memory.wf_write (m : Memory) (a : Nat) (v : Byte) (hw : Memory.wf m) : Memory.wf (m.write a v) :=
  Sparse.wf_set Memory.unlisted m a v hw

theorem Memory.below_write (m : Memory) (n a : Nat) (v : Byte) (h : Sparse.below n m) (ha : a < n) :
    Sparse.below n (m.write a v) :=
  Sparse.below_set Memory.unlisted m n a v h ha

/-! ### Little-endian runs -/

/-- A run of n bytes read at `a` depends on those bytes only. -/
theorem Memory.readLE_congr (m m' : Memory) (a n : Nat) (h : ∀ x, a ≤ x → x < a + n → m.read x = m'.read x) :
    m.readLE a n = m'.readLE a n := by
  induction n generalizing a with
  | zero => rfl
  | succ n ih =>
    simp only [Memory.readLE]
    rw [h a (by omega) (by omega), ih (a + 1) fun x h1 h2 => h x (by omega) (by omega)]

/-- An n-byte value is below 256^n. -/
theorem Memory.readLE_lt (m : Memory) (a n : Nat) : m.readLE a n < 256 ^ n := by
  induction n generalizing a with
  | zero => simp [Memory.readLE]
  | succ n ih =>
    simp only [Memory.readLE]
    have := ih (a + 1)
    have hb := (m.read a).isLt
    rw [Nat.pow_succ]
    omega

theorem Memory.wf_writeLE (m : Memory) (a n v : Nat) (hw : Memory.wf m) : Memory.wf (m.writeLE a n v) := by
  induction n generalizing m a v with
  | zero => exact hw
  | succ n ih => exact ih _ _ _ (Memory.wf_write m a _ hw)

theorem Memory.below_writeLE (m : Memory) (N a n v : Nat) (h : Sparse.below N m) (ha : a + n ≤ N) :
    Sparse.below N (m.writeLE a n v) := by
  induction n generalizing m a v with
  | zero => exact h
  | succ n ih => exact ih _ _ _ (Memory.below_write m N a _ h (by omega)) (by omega)

/-- A write of n bytes at `a` leaves every byte outside them alone. -/
theorem Memory.read_writeLE_other (m : Memory) (a n v x : Nat) (h : x < a ∨ a + n ≤ x) :
    (m.writeLE a n v).read x = m.read x := by
  induction n generalizing m a v with
  | zero => rfl
  | succ n ih =>
    simp only [Memory.writeLE]
    rw [ih _ _ _ (by omega), Memory.read_write_other m a x _ (by omega)]

/-- Reading back what was written. -/
theorem Memory.readLE_writeLE_same (m : Memory) (hw : Memory.wf m) (a n v : Nat) :
    (m.writeLE a n v).readLE a n = v % 256 ^ n := by
  induction n generalizing m a v with
  | zero => simp [Memory.readLE, Nat.mod_one]
  | succ n ih =>
    simp only [Memory.writeLE, Memory.readLE]
    rw [Memory.read_writeLE_other _ _ _ _ _ (by omega), Memory.read_write_same m hw,
      ih _ (Memory.wf_write m a _ hw), pow_succ', Nat.mod_mul]
    simp [BitVec.toNat_ofNat]

/-! ### The primitives -/

/-- MemRead: the value if every byte exists, else BUS; the state is unchanged. -/
theorem memRead_cases (op a n : Nat) (s : State) :
    (a + n ≤ s.cfg.memSize ∧ memRead op a n s = .ok (s.mem.readLE a n) s) ∨
    (s.cfg.memSize < a + n ∧ memRead op a n s = .raised (busErr op a .read) s) := by
  by_cases h : a + n ≤ s.cfg.memSize
  · exact .inl ⟨h, by simp [memRead, inRange, h]⟩
  · exact .inr ⟨by omega, by simp [memRead, inRange, h]⟩

/-- MemWrite: the bytes if every one exists, else BUS and an unchanged state. -/
theorem memWrite_cases (op a n v : Nat) (s : State) :
    (a + n ≤ s.cfg.memSize ∧ memWrite op a n v s = .ok () { s with mem := s.mem.writeLE a n v }) ∨
    (s.cfg.memSize < a + n ∧ memWrite op a n v s = .raised (busErr op a .write) s) := by
  by_cases h : a + n ≤ s.cfg.memSize
  · exact .inl ⟨h, by simp [memWrite, inRange, h]⟩
  · exact .inr ⟨by omega, by simp [memWrite, inRange, h]⟩

/-! ### The other operations on memory -/

theorem Memory.wf_mixBytes (pick : Nat → Bool) (new : Memory) (n a : Nat) (m : Memory) (hw : Memory.wf m) :
    Memory.wf (mixBytes pick new n a m) := by
  induction n generalizing a m with
  | zero => exact hw
  | succ n ih =>
    simp only [mixBytes]
    exact ih _ _ (by split_ifs; exacts [Memory.wf_write m a _ hw, hw])

/-- After a mix every byte is the old one or the new one. -/
theorem Memory.read_mixBytes (pick : Nat → Bool) (new : Memory) (n a : Nat) (m : Memory) (hw : Memory.wf m) (x : Nat) :
    (mixBytes pick new n a m).read x = m.read x ∨
    (a ≤ x ∧ x < a + n ∧ (mixBytes pick new n a m).read x = new.read x) := by
  induction n generalizing a m with
  | zero => exact .inl rfl
  | succ n ih =>
    simp only [mixBytes]
    by_cases hp : pick a = true
    · simp only [hp, if_true]
      rcases ih (a + 1) _ (Memory.wf_write m a (new.read a) hw) with h | ⟨h1, h2, h3⟩
      · by_cases hx : x = a
        · subst hx
          rw [Memory.read_write_same m hw] at h
          exact .inr ⟨by omega, by omega, h⟩
        · rw [Memory.read_write_other m a x _ hx] at h
          exact .inl h
      · exact .inr ⟨by omega, by omega, h3⟩
    · simp only [Bool.not_eq_true] at hp
      simp only [hp]
      rcases ih (a + 1) m hw with h | ⟨h1, h2, h3⟩
      · exact .inl h
      · exact .inr ⟨by omega, by omega, h3⟩

theorem Memory.wf_placeBytes (bs : List Byte) (a : Nat) (m : Memory) (hw : Memory.wf m) :
    Memory.wf (placeBytes bs a m) := by
  induction bs generalizing a m with
  | nil => exact hw
  | cons b bs ih => exact ih _ _ (Memory.wf_write m a b hw)

/-- The memory after reset is canonical and lists nothing. -/
theorem reset_mem_wf : Memory.wf State.reset.mem := by simp [State.reset, Memory.wf, Sparse.wf]

end Sys2Proof.Machine
end

