-- ==== Sys2Proof/Laws/BitStream.lean ====
section
/-! SUPPORT. What each shared operation of the bitstream and of the commands can do, said once. -/

namespace Sys2Proof.Machine

/-- The state a run has reached, whether it goes on or has raised. -/
def Run.state {α : Type} : Run α → State
  | .ok _ s => s
  | .raised _ s => s

@[simp] theorem Run.state_ok {α : Type} (a : α) (s : State) : (Run.ok a s).state = s := rfl
@[simp] theorem Run.state_raised {α : Type} (e : Err) (s : State) : (Run.raised e s : Run α).state = s := rfl

/-- A command always ends: in a next state that is idle and done. -/
theorem finish_next (r : Run Unit) : ∃ t, finish r = .next t ∧ t.phase = .idle ∧ t.done = true := by
  cases r <;> exact ⟨_, rfl, rfl, rfl⟩

@[simp] theorem finish_ok (s : State) : finish (.ok () s) = .next (complete s) := rfl
@[simp] theorem finish_raised (e : Err) (s : State) : finish (.raised e s) = .next (raiseErr e s) := rfl

@[simp] theorem Memory.writeLE_one (m : Memory) (a v : Nat) : m.writeLE a 1 v = m.write a (BitVec.ofNat 8 v) := rfl

theorem Memory.readLE_one (m : Memory) (a : Nat) : m.readLE a 1 = (m.read a).toNat := by simp [Memory.readLE]

/-! ### The writer -/

/-- One artifact byte: written at WBASE + WBYTES, or BUS with the writer released. -/
theorem writeArtifactByte_cases (op : Nat) (v : Byte) (s : State) :
    (s.wbyteAddr + 1 ≤ s.cfg.memSize ∧
      writeArtifactByte op v s = .ok () { s with mem := s.mem.write s.wbyteAddr v }) ∨
    (s.cfg.memSize < s.wbyteAddr + 1 ∧
      writeArtifactByte op v s = .raised (busErr op s.wbyteAddr .write) (releaseWriter s)) := by
  rcases memWrite_cases op s.wbyteAddr 1 v.toNat s with ⟨h, e⟩ | ⟨h, e⟩
  · exact .inl ⟨h, by simp [writeArtifactByte, e]⟩
  · exact .inr ⟨h, by simp [writeArtifactByte, e]⟩

/-- WriteBit: the first seven bits of a byte touch no memory; the eighth writes the byte, or raises BUS with the
writer released and its counters kept. -/
theorem writeBit_cases (op : Nat) (b : Bool) (s : State) :
    (s.wr.wcnt ≠ 7 ∧ writeBit op b s = .ok () { s with wr := shiftIn b s.wr }) ∨
    (s.wr.wcnt = 7 ∧ s.wbyteAddr + 1 ≤ s.cfg.memSize ∧
      writeBit op b s = .ok () (byteOut { s with
        wr := shiftIn b s.wr, mem := s.mem.write s.wbyteAddr (shiftIn b s.wr).wacc })) ∨
    (s.wr.wcnt = 7 ∧ s.cfg.memSize < s.wbyteAddr + 1 ∧
      writeBit op b s =
        .raised (busErr op s.wbyteAddr .write) (releaseWriter { s with wr := shiftIn b s.wr })) := by
  by_cases hc : s.wr.wcnt = 7
  · have h8 : (shiftIn b s.wr).wcnt = 8 := by simp [shiftIn, hc]
    rcases writeArtifactByte_cases op (shiftIn b s.wr).wacc { s with wr := shiftIn b s.wr } with ⟨h, e⟩ | ⟨h, e⟩
    · exact .inr (.inl ⟨hc, h, by simp only [writeBit, h8, if_true, e]; rfl⟩)
    · exact .inr (.inr ⟨hc, h, by simp only [writeBit, h8, if_true, e]; rfl⟩)
  · have h8 : ¬ (shiftIn b s.wr).wcnt = 8 := by simp [shiftIn, hc]
    exact .inl ⟨hc, by simp only [writeBit, h8, if_false]⟩

/-- WClose: nothing pending closes at once; a partial byte is written padded, or raises BUS with the writer
released. -/
theorem wClose_cases (op : Nat) (s : State) :
    (s.wr.wcnt = 0 ∧ wClose op s = .ok () (closeWriter s)) ∨
    (0 < s.wr.wcnt ∧ s.wbyteAddr + 1 ≤ s.cfg.memSize ∧
      wClose op s = .ok () (closeWriter (byteOut { s with mem := s.mem.write s.wbyteAddr (paddedByte s.wr) }))) ∨
    (0 < s.wr.wcnt ∧ s.cfg.memSize < s.wbyteAddr + 1 ∧
      wClose op s = .raised (busErr op s.wbyteAddr .write) (releaseWriter s)) := by
  by_cases hc : 0 < s.wr.wcnt
  · rcases writeArtifactByte_cases op (paddedByte s.wr) s with ⟨h, e⟩ | ⟨h, e⟩
    · exact .inr (.inl ⟨hc, h, by simp [wClose, hc, e]⟩)
    · exact .inr (.inr ⟨hc, h, by simp [wClose, hc, e]⟩)
  · exact .inl ⟨by omega, by simp [wClose, hc]⟩

/-- WCloseOnError changes the writer and at most the byte at WBASE + WBYTES. -/
theorem wCloseOnError_frame (s : State) :
    wCloseOnError s = { s with wr := (wCloseOnError s).wr, mem := (wCloseOnError s).mem } := by
  unfold wCloseOnError
  split_ifs <;> rfl

/-! ### The reader -/

/-- The byte fetch of ReadBit: at a byte boundary the byte, or BUS with the reader released; else nothing. -/
theorem fetchRbyte_cases (op : Nat) (s : State) :
    (s.rd.rpos % 8 ≠ 0 ∧ fetchRbyte op s = .ok () s) ∨
    (s.rd.rpos % 8 = 0 ∧ s.rbyteAddr + 1 ≤ s.cfg.memSize ∧
      fetchRbyte op s = .ok () { s with rd := { s.rd with rbyte := s.mem.read s.rbyteAddr } }) ∨
    (s.rd.rpos % 8 = 0 ∧ s.cfg.memSize < s.rbyteAddr + 1 ∧
      fetchRbyte op s = .raised (busErr op s.rbyteAddr .read) (closeReader s)) := by
  by_cases hc : s.rd.rpos % 8 = 0
  · rcases memRead_cases op s.rbyteAddr 1 s with ⟨h, e⟩ | ⟨h, e⟩
    · exact .inr (.inl ⟨hc, h, by simp [fetchRbyte, hc, e, Memory.readLE_one]⟩)
    · exact .inr (.inr ⟨hc, h, by simp [fetchRbyte, hc, e]⟩)
  · exact .inl ⟨hc, by simp [fetchRbyte, hc]⟩

/-- ReadBit: the next bit of the current byte, or of a byte just fetched, or BUS with the reader released. -/
theorem readBit_cases (op : Nat) (s : State) :
    (s.rd.rpos % 8 ≠ 0 ∧ readBit op s = .ok (s.rd.rbyte.getLsbD (7 - s.rd.rpos % 8))
      { s with rd := { s.rd with rpos := s.rd.rpos + 1 } }) ∨
    (s.rd.rpos % 8 = 0 ∧ s.rbyteAddr + 1 ≤ s.cfg.memSize ∧
      readBit op s = .ok ((s.mem.read s.rbyteAddr).getLsbD 7)
        { s with rd := { s.rd with rbyte := s.mem.read s.rbyteAddr, rpos := s.rd.rpos + 1 } }) ∨
    (s.rd.rpos % 8 = 0 ∧ s.cfg.memSize < s.rbyteAddr + 1 ∧
      readBit op s = .raised (busErr op s.rbyteAddr .read) (closeReader s)) := by
  rcases fetchRbyte_cases op s with ⟨h, e⟩ | ⟨h, h1, e⟩ | ⟨h, h1, e⟩
  · exact .inl ⟨h, by simp [readBit, e]⟩
  · exact .inr (.inl ⟨h, h1, by simp [readBit, e, h]⟩)
  · exact .inr (.inr ⟨h, h1, by simp [readBit, e]⟩)

/-! ### The decoder's emission -/

/-- Emit: one symbol written and counted, or BUS with the reader released. -/
theorem emit_cases (op sym : Nat) (s : State) :
    (s.outSymAddr s.dstLen + s.cfg.sb ≤ s.cfg.memSize ∧
      emit op sym s = .ok () { s with
        mem := s.mem.writeLE (s.outSymAddr s.dstLen) s.cfg.sb sym, dstLen := s.dstLen + 1 }) ∨
    (s.cfg.memSize < s.outSymAddr s.dstLen + s.cfg.sb ∧
      emit op sym s = .raised (busErr op (s.outSymAddr s.dstLen) .write) (closeReader s)) := by
  rcases memWrite_cases op (s.outSymAddr s.dstLen) s.cfg.sb sym s with ⟨h, e⟩ | ⟨h, e⟩
  · exact .inl ⟨h, by simp [emit, writeOutSym, e]⟩
  · exact .inr ⟨h, by simp [emit, writeOutSym, e]⟩

/-! ### Frames of the loops: the fields a loop may change, every other field as before -/

theorem writeBit_frame (op : Nat) (b : Bool) (s : State) :
    (writeBit op b s).state = { s with wr := (writeBit op b s).state.wr, mem := (writeBit op b s).state.mem } := by
  rcases writeBit_cases op b s with ⟨-, e⟩ | ⟨-, -, e⟩ | ⟨-, -, e⟩ <;> rw [e] <;> rfl

theorem writeBits_frame (op : Nat) (bs : List Bool) (s : State) :
    (writeBits op bs s).state =
      { s with wr := (writeBits op bs s).state.wr, mem := (writeBits op bs s).state.mem } := by
  induction bs generalizing s with
  | nil => rfl
  | cons b bs ih =>
    have h := writeBit_frame op b s
    simp only [writeBits]
    cases e : writeBit op b s with
    | raised x t => rw [e] at h; exact h
    | ok x t =>
      rw [e] at h
      have h2 := ih t
      simp only [Run.state_ok] at h
      rw [h2, h]

theorem encodeSym_frame (op a x : Nat) (s : State) :
    (encodeSym op a x s).state =
      { s with wr := (encodeSym op a x s).state.wr, mem := (encodeSym op a x s).state.mem } := by
  unfold encodeSym
  split_ifs
  · exact wCloseOnError_frame s
  · exact writeBits_frame op _ s

theorem readInSym_cases (op i : Nat) (s : State) :
    (inRange s (s.inSymAddr i) s.cfg.sb = true ∧ readInSym op i s = .ok (s.inSym i) s) ∨
    (inRange s (s.inSymAddr i) s.cfg.sb = false ∧
      readInSym op i s = .raised (busErr op (s.inSymAddr i) .read) s) := by
  by_cases h : inRange s (s.inSymAddr i) s.cfg.sb = true
  · exact .inl ⟨h, by simp [readInSym, memRead, h, State.inSym]⟩
  · simp only [Bool.not_eq_true] at h
    exact .inr ⟨h, by simp [readInSym, memRead, h]⟩

theorem encodeLoop_frame (op n i : Nat) (s : State) :
    (encodeLoop op n i s).state =
      { s with wr := (encodeLoop op n i s).state.wr, mem := (encodeLoop op n i s).state.mem } := by
  induction n generalizing i s with
  | zero => rfl
  | succ n ih =>
    simp only [encodeLoop]
    rcases readInSym_cases op i s with ⟨-, e⟩ | ⟨-, e⟩
    · rw [e]
      have h := encodeSym_frame op (s.inSymAddr i) (s.inSym i) s
      simp only
      cases e2 : encodeSym op (s.inSymAddr i) (s.inSym i) s with
      | raised x t => rw [e2] at h; exact h
      | ok x t =>
        rw [e2] at h
        simp only [Run.state_ok] at h
        have h2 := ih (i + 1) t
        simp only
        rw [h2, h]
    · rw [e]
      exact wCloseOnError_frame s

/-- COMPRESS changes the writer and the data memory, nothing else, before it completes. -/
theorem compressBody_frame (op : Nat) (s : State) :
    (compressBody op s).state =
      { s with wr := (compressBody op s).state.wr, mem := (compressBody op s).state.mem } := by
  have h := encodeLoop_frame op s.inCount 0 (wOpen s.outAddr s)
  unfold compressBody
  cases e : encodeLoop op s.inCount 0 (wOpen s.outAddr s) with
  | raised x t => rw [e] at h; exact h
  | ok x t =>
    rw [e] at h
    simp only [Run.state_ok] at h
    simp only
    rcases wClose_cases op t with ⟨-, e2⟩ | ⟨-, -, e2⟩ | ⟨-, -, e2⟩ <;> rw [e2, h] <;> rfl

theorem countLoop_frame (op n i : Nat) (s : State) :
    (countLoop op n i s).state = { s with hist := (countLoop op n i s).state.hist } := by
  induction n generalizing i s with
  | zero => rfl
  | succ n ih =>
    simp only [countLoop]
    rcases readInSym_cases op i s with ⟨-, e⟩ | ⟨-, e⟩
    · rw [e]
      have h2 := ih (i + 1) (countSym (s.inSym i) s)
      simp only
      rw [h2]
      rfl
    · rw [e]
      rfl

theorem readBit_frame (op : Nat) (s : State) :
    (readBit op s).state = { s with rd := (readBit op s).state.rd } := by
  rcases readBit_cases op s with ⟨-, e⟩ | ⟨-, -, e⟩ | ⟨-, -, e⟩ <;> rw [e] <;> rfl

theorem emit_frame (op sym : Nat) (s : State) :
    (emit op sym s).state =
      { s with
        rd := (emit op sym s).state.rd, mem := (emit op sym s).state.mem, dstLen := (emit op sym s).state.dstLen } := by
  rcases emit_cases op sym s with ⟨-, e⟩ | ⟨-, e⟩ <;> rw [e] <;> rfl

theorem emitIfLeaf_frame (op pos : Nat) (s : State) :
    (emitIfLeaf op pos s).state =
      { s with
        rd := (emitIfLeaf op pos s).state.rd
        mem := (emitIfLeaf op pos s).state.mem
        dstLen := (emitIfLeaf op pos s).state.dstLen } := by
  unfold emitIfLeaf
  split_ifs
  · rcases emit_cases op (s.nodeAt pos).sym s with ⟨-, e⟩ | ⟨-, e⟩ <;> rw [e] <;> rfl
  · rfl

/-- `t` differs from `s` in what DECOMPRESS's loop may change: the reader, the data memory and DSTLEN. -/
def OnlyDecode (s t : State) : Prop := t = { s with rd := t.rd, mem := t.mem, dstLen := t.dstLen }

theorem OnlyDecode.trans {s t u : State} (h1 : OnlyDecode s t) (h2 : OnlyDecode t u) : OnlyDecode s u := by
  unfold OnlyDecode at *
  rw [h2, h1]

theorem OnlyDecode.of_rd {s t : State} (h : t = { s with rd := t.rd }) : OnlyDecode s t := by
  unfold OnlyDecode
  rw [h]

theorem decodeLoop_frame (op n pos : Nat) (s : State) : OnlyDecode s (decodeLoop op n pos s).state := by
  induction n generalizing pos s with
  | zero => rfl
  | succ n ih =>
    simp only [decodeLoop]
    split_ifs
    · have h : OnlyDecode s (emitIfLeaf op pos s).state := emitIfLeaf_frame op pos s
      cases e : emitIfLeaf op pos s with
      | raised x t => rw [e] at h; exact h
      | ok p t =>
        rw [e] at h
        have h2 := OnlyDecode.of_rd (readBit_frame op t)
        simp only
        cases e2 : readBit op t with
        | raised x u => rw [e2] at h2; exact h.trans h2
        | ok b u => rw [e2] at h2; exact (h.trans h2).trans (ih (walkBit b p u) u)
    · rfl

/-! ### The priority collection -/

/-- PopMin takes one node out and leaves the others. -/
theorem popMin_perm (m : Sparse Node) (q : List Nat) (i : Nat) (r : List Nat) (h : popMin m q = some (i, r)) :
    List.Perm (i :: r) q := by
  induction q generalizing i r with
  | nil => cases h
  | cons j q ih =>
    simp only [popMin] at h
    cases e : popMin m q with
    | none =>
      rw [e] at h
      cases q with
      | nil => cases h; exact List.Perm.refl _
      | cons a b =>
        simp only [popMin] at e
        cases e2 : popMin m b <;> rw [e2] at e
        · cases e
        · simp only at e; split_ifs at e
    | some p =>
      obtain ⟨k, r'⟩ := p
      rw [e] at h
      simp only at h
      split_ifs at h
      · cases h
        exact (List.Perm.swap _ _ _).trans (List.Perm.cons _ (ih _ _ e))
      · cases h
        exact List.Perm.refl _

/-- PopMin takes nothing only from an empty collection. -/
theorem popMin_none (m : Sparse Node) (q : List Nat) : popMin m q = none ↔ q = [] := by
  cases q with
  | nil => simp [popMin]
  | cons j q =>
    simp only [popMin]
    cases popMin m q with
    | none => simp
    | some p => simp only; split_ifs <;> simp

end Sys2Proof.Machine
end

