-- ==== Sys2Proof/Laws/HostPort.lean ====
section
/-! SUPPORT. What a register access can do, said once. -/

namespace Sys2Proof.Machine

/-- Each register is reached at its own offset. -/
@[simp] theorem regOf_offsetOf (r : Reg) : regOf (offsetOf r) 4 = some r := by cases r <;> rfl

/-- Every register is in the list of all registers. -/
theorem mem_allRegs (r : Reg) : r ∈ allRegs := by cases r <;> decide

/-- An access reaches a register only at that register's offset, with four bytes. -/
theorem regOf_some {off n : Nat} {r : Reg} (h : regOf off n = some r) : n = 4 ∧ off = offsetOf r := by
  unfold regOf at h
  split at h
  · next hn =>
    have hb : (offsetOf r == off) = true := List.find?_some (p := fun r => offsetOf r == off) h
    exact ⟨hn, (eq_of_beq hb).symm⟩
  · cases h

/-- Every offset of a register is a multiple of 4 below 0x0A0. -/
theorem offsetOf_bound (r : Reg) : offsetOf r % 4 = 0 ∧ offsetOf r < 0x0A0 := by cases r <;> decide

/-- A read at a register's offset reads the register. -/
@[simp] theorem busRead_offsetOf (r : Reg) (s : State) : busRead (offsetOf r) 4 s = readReg r s := by
  simp only [busRead, regOf_offsetOf]

/-- A write at a register's offset writes the register. -/
@[simp] theorem busWrite_offsetOf (r : Reg) (v : Word) (s : State) : busWrite (offsetOf r) 4 v s = writeReg r v s := by
  simp only [busWrite, regOf_offsetOf]

/-- A read leaves the state alone, uses up one free value, or (STATUS while idle) makes HOST see the end. -/
theorem readReg_frame (r : Reg) (s : State) :
    (readReg r s).2 = s ∨ (readReg r s).2 = { s with freeCtr := s.freeCtr + 1 } ∨
    (s.phase = .idle ∧ r = .status ∧ (readReg r s).2 = hostSees s) := by
  unfold readReg
  split
  · split
    · exact .inr (.inl rfl)
    · exact .inr (.inl rfl)
  · split
    · exact .inr (.inl rfl)
    · split
      · exact .inl rfl
      · exact .inr (.inl rfl)
  · next hp =>
    split
    · next hr => exact .inr (.inr ⟨hp, hr, rfl⟩)
    · split
      · exact .inr (.inl rfl)
      · exact .inl rfl

/-- The same for an access at any offset. -/
theorem busRead_frame (off n : Nat) (s : State) :
    (busRead off n s).2 = s ∨ (busRead off n s).2 = { s with freeCtr := s.freeCtr + 1 } ∨
    (s.phase = .idle ∧ (busRead off n s).2 = hostSees s) := by
  unfold busRead
  split
  · next r _ =>
    rcases readReg_frame r s with h | h | ⟨hp, -, h⟩
    · exact .inl h
    · exact .inr (.inl h)
    · exact .inr (.inr ⟨hp, h⟩)
  · exact .inl rfl

/-- No register write reaches the data memory, the tree, the code table, the streams or the decoder output. -/
theorem writeReg_frame (r : Reg) (v : Word) (s : State) :
    (writeReg r v s).cfg = s.cfg ∧ (writeReg r v s).mem = s.mem ∧ (writeReg r v s).tree = s.tree ∧
    (writeReg r v s).ct = s.ct ∧ (writeReg r v s).wr = s.wr ∧ (writeReg r v s).rd = s.rd ∧
    (writeReg r v s).dstLen = s.dstLen ∧ (writeReg r v s).dstValid = s.dstValid ∧
    (writeReg r v s).freeCtr = s.freeCtr := by
  unfold writeReg
  split
  · cases r <;> exact ⟨rfl, rfl, rfl, rfl, rfl, rfl, rfl, rfl, rfl⟩
  · unfold writeRunning
    split
    · exact ⟨rfl, rfl, rfl, rfl, rfl, rfl, rfl, rfl, rfl⟩
    · split
      · exact ⟨rfl, rfl, rfl, rfl, rfl, rfl, rfl, rfl, rfl⟩
      · split <;> exact ⟨rfl, rfl, rfl, rfl, rfl, rfl, rfl, rfl, rfl⟩
  · exact ⟨rfl, rfl, rfl, rfl, rfl, rfl, rfl, rfl, rfl⟩

end Sys2Proof.Machine
end

