-- ==== Sys2Proof/Laws/PerInstr.lean ====
section
/-! SUPPORT. One lemma per command: the fields of its encoding (30_encoding.md R130, R132, R133). -/

namespace Sys2Proof.Laws

/-- The word of `i` has its opcode in bits 3:0, its operand in bit 8, and every reserved bit 0 (30_encoding.md R130). -/
def EncodingFields.Statement (i : Instr) : Prop :=
  fieldOp (encode i) = opcode i ∧ fieldB (encode i) = operandBit i ∧ fieldMid (encode i) = 0 ∧
  fieldHigh (encode i) = 0

namespace EncodingFields

theorem nop : Statement .nop := ⟨by decide, by decide, by decide, by decide⟩
theorem analyze : Statement .analyze := ⟨by decide, by decide, by decide, by decide⟩
theorem buildtree : Statement .buildtree := ⟨by decide, by decide, by decide, by decide⟩
theorem buildtable : Statement .buildtable := ⟨by decide, by decide, by decide, by decide⟩
theorem compress : Statement .compress := ⟨by decide, by decide, by decide, by decide⟩
theorem decompress : Statement .decompress := ⟨by decide, by decide, by decide, by decide⟩
theorem clear : Statement .clear := ⟨by decide, by decide, by decide, by decide⟩
theorem wopen : Statement .wopen := ⟨by decide, by decide, by decide, by decide⟩
theorem wbit (b : Bool) : Statement (.wbit b) := by
  cases b <;> exact ⟨by decide, by decide, by decide, by decide⟩
theorem wclose : Statement .wclose := ⟨by decide, by decide, by decide, by decide⟩
theorem ropen : Statement .ropen := ⟨by decide, by decide, by decide, by decide⟩
theorem rbit : Statement .rbit := ⟨by decide, by decide, by decide, by decide⟩
theorem rclose : Statement .rclose := ⟨by decide, by decide, by decide, by decide⟩

end EncodingFields

end Sys2Proof.Laws
end

