-- ==== Sys2Proof/Laws/Step.lean ====
section
/-! SUPPORT. What a step can do, said once: every command answers a next state, and a next state of `step` comes from
one HOST statement, one command, an invalid word, or the end of reset initialisation. -/

namespace Sys2Proof.Machine

/-- Every command is `finish` of some run: it never stops (60_exceptions.md R353). -/
theorem exec_finish (i : Instr) (s : State) : ∃ r, exec i s = finish r := by
  cases i with
  | nop => exact ⟨.ok () s, rfl⟩
  | analyze => exact ⟨_, rfl⟩
  | buildtree => exact ⟨.ok () { s with tree := buildTree s }, rfl⟩
  | buildtable => exact ⟨.ok () { s with ct := buildTable s.tree }, rfl⟩
  | compress => simp only [exec, execCompress]; split <;> exact ⟨_, rfl⟩
  | decompress => simp only [exec, execDecompress]; split <;> exact ⟨_, rfl⟩
  | clear => exact ⟨.ok () (clearInternal s), rfl⟩
  | wopen => simp only [exec, execWopen]; split <;> exact ⟨_, rfl⟩
  | wbit b => simp only [exec, execWbit]; split <;> exact ⟨_, rfl⟩
  | wclose => simp only [exec, execWclose]; split <;> exact ⟨_, rfl⟩
  | ropen => simp only [exec, execRopen]; split <;> exact ⟨_, rfl⟩
  | rbit =>
    simp only [exec, execRbit]
    split
    · split <;> exact ⟨_, rfl⟩
    · exact ⟨_, rfl⟩
  | rclose => simp only [exec, execRclose]; split <;> exact ⟨_, rfl⟩

/-- A command answers a next state, idle and with DONE set. -/
theorem exec_next (i : Instr) (s : State) : ∃ t, exec i s = .next t ∧ t.phase = .idle ∧ t.done = true := by
  obtain ⟨r, hr⟩ := exec_finish i s
  rw [hr]
  exact finish_next r

/-- `afterExec` is the state the command answers. -/
theorem exec_eq_afterExec (i : Instr) (s : State) : exec i s = .next (afterExec i s) := by
  obtain ⟨t, ht, -⟩ := exec_next i s
  simp only [afterExec, ht]

/-- HOST's turn: nothing, or its next statement. -/
theorem hostStep_cases {s t : State} (h : hostStep s = .next t) :
    (s.host.prog[s.host.pc]? = none ∧ t = s) ∨
    ∃ st, s.host.prog[s.host.pc]? = some st ∧ runStmt st s = .next t := by
  cases hp : s.host.prog[s.host.pc]? with
  | none =>
    simp only [hostStep, hp] at h
    injection h with h
    exact .inl ⟨rfl, h.symm⟩
  | some st => exact .inr ⟨st, rfl, by simpa only [hostStep, hp] using h⟩

/-- CORE's turn: a whole command, an invalid word, the end of reset initialisation, or nothing. -/
theorem coreStep_cases {s t : State} (h : coreStep s = .next t) :
    (∃ c i, s.phase = .running c ∧ decode c = .ok i ∧ exec i s = .next t) ∨
    (∃ c e, s.phase = .running c ∧ decode c = .error e ∧ t = raiseErr (badcmdErr c) s) ∨
    (s.phase = .resetting ∧ t = finishReset s) ∨ (s.phase = .idle ∧ t = s) := by
  unfold coreStep at h
  split at h
  · next c hc =>
    unfold runWord at h
    split at h
    · next i hi => exact .inl ⟨c, i, hc, hi, h⟩
    · next e he => injection h with h; exact .inr (.inl ⟨c, e, hc, he, h.symm⟩)
  · next hc => injection h with h; exact .inr (.inr (.inl ⟨hc, h.symm⟩))
  · next hc => injection h with h; exact .inr (.inr (.inr ⟨hc, h.symm⟩))

/-- A step is HOST's turn or CORE's, on the state with the schedule entry used up. -/
theorem step_cases {s t : State} (h : step s = .next t) :
    (nextAgent s = .host ∧ hostStep (popSched s) = .next t) ∨
    (nextAgent s = .core ∧ coreStep (popSched s) = .next t) := by
  unfold step at h
  split at h
  · next ha => exact .inl ⟨ha, h⟩
  · next ha => exact .inr ⟨ha, h⟩

/-- Using up a schedule entry changes nothing but the schedule. -/
theorem popSched_frame (s : State) : popSched s = { s with host := { s.host with sched := (popSched s).host.sched } } := by
  unfold popSched
  split <;> rfl

/-- What one statement of HOST can do: a bus access, a data-memory access, an irq, a wait for one, or a reset. -/
theorem runStmt_cases {st : HostStmt} {s t : State} (h : runStmt st s = .next t) :
    (∃ off n v, st = .wr off n v ∧ t = nextStmt (busWrite off n v s)) ∨
    (∃ off n, st = .rd off n ∧ t = nextStmt (hostRead off n s)) ∨
    (∃ off v, st = .rdCheck off v ∧ t = nextStmt (hostCheck v (hostRead off 4 s))) ∨
    (∃ off mask target, st = .jnz off mask target ∧ t = hostBranch mask target (hostRead off 4 s)) ∨
    (∃ a v, st = .memWr a v ∧ inRange s a 1 = true ∧ writeViolates s a = false ∧
      t = nextStmt { s with mem := s.mem.write a v }) ∨
    (∃ a, st = .memRd a ∧ inRange s a 1 = true ∧ readViolates s a = false ∧
      t = nextStmt { s with host := { s.host with rdata := (s.mem.read a).setWidth 32 } }) ∨
    (st = .takeIrq ∧ s.irq = true ∧ t = nextStmt (hostSees s)) ∨ (st = .takeIrq ∧ s.irq = false ∧ t = s) ∨
    (st = .reset ∧ t = nextStmt (assertReset s)) := by
  cases st with
  | wr off n v => injection h with h; exact .inl ⟨off, n, v, rfl, h.symm⟩
  | rd off n => injection h with h; exact .inr (.inl ⟨off, n, rfl, h.symm⟩)
  | rdCheck off v => injection h with h; exact .inr (.inr (.inl ⟨off, v, rfl, h.symm⟩))
  | jnz off mask target => injection h with h; exact .inr (.inr (.inr (.inl ⟨off, mask, target, rfl, h.symm⟩)))
  | memWr a v =>
    simp only [runStmt, hostMemWrite] at h
    split at h
    · cases h
    · split at h
      · cases h
      · next hr hv =>
        injection h with h
        exact .inr (.inr (.inr (.inr (.inl ⟨a, v, rfl, by simpa using hr, by simpa using hv, h.symm⟩))))
  | memRd a =>
    simp only [runStmt, hostMemRead] at h
    split at h
    · cases h
    · split at h
      · cases h
      · next hr hv =>
        injection h with h
        exact .inr (.inr (.inr (.inr (.inr (.inl ⟨a, rfl, by simpa using hr, by simpa using hv, h.symm⟩)))))
  | takeIrq =>
    simp only [runStmt] at h
    split at h
    · next hi => injection h with h; exact .inr (.inr (.inr (.inr (.inr (.inr (.inl ⟨rfl, hi, h.symm⟩))))))
    · next hi =>
      injection h with h
      exact .inr (.inr (.inr (.inr (.inr (.inr (.inr (.inl ⟨rfl, by simpa using hi, h.symm⟩)))))))
  | reset => injection h with h; exact .inr (.inr (.inr (.inr (.inr (.inr (.inr (.inr ⟨rfl, h.symm⟩)))))))

end Sys2Proof.Machine
end

