-- ==== Sys2Proof/Tests/Slice0.lean ====
section
/-! SUPPORT. The model's own tests: ill-formed terms that WellFormed refuses, command words written out bit by bit from
30_encoding.md R130 and R132, single steps with the results of 95_test_vectors.md, and for each obligation with
hypotheses a state that meets them. -/

open Sys2Proof Sys2Proof.Machine

namespace Sys2Proof.Tests

/-! ## Small states -/

/-- The state a command leaves from `s`. -/
abbrev after (i : Instr) (s : State) : State := afterExec i s

/-- The reset state with the bytes `bs` at 0x100 as input, artifacts at 0x200, output at 0x300. -/
def withInput (bs : List Byte) : State :=
  { State.reset with
    mem := placeBytes bs 0x100 []
    inAddr := 0x100, inLen := BitVec.ofNat 32 bs.length, outAddr := 0x200, srcAddr := 0x200, dstAddr := 0x300 }

/-- "ab" at 0x100 (95_test_vectors.md 2.4, 2.5). -/
def ab : State := withInput [0x61, 0x62]
def ab1 : State := after .analyze ab
def ab2 : State := after .buildtree ab1
def ab3 : State := after .buildtable ab2
def ab4 : State := after .compress ab3
/-- `ab4` ready to decode its artifact of 2 bits. -/
def ab5 : State := { ab4 with srcBits := 2 }

/-- "aa": one symbol. -/
def aa : State := withInput [0x61, 0x61]
def aa1 : State := after .analyze aa
def aa2 : State := after .buildtree aa1
def aa3 : State := after .buildtable aa2
def aa5 : State := { after .compress aa3 with srcBits := 2 }

/-- The tree of "ab", written out. -/
def abTree : Machine.Tree :=
  { kind := .normal, root := 2, nnodes := 3, nsyms := 2
    node := [(0, Node.mkLeaf 0x61 1), (1, Node.mkLeaf 0x62 1), (2, ⟨false, 0, 2, 0, 1⟩)] }

/-- A state with the tree and the table of "ab". -/
def abBuilt : State := { ab with tree := abTree, ct := [(0x61, [false]), (0x62, [true])] }

/-- An open writer at `base` that has taken the bits of `acc`. -/
def writing (base : Word) (acc : Byte) (cnt : Nat) : State :=
  { State.reset with wr :=
    { wopen := true, wbase := base, wacc := acc, wcnt := cnt, wbits := cnt, wbytes := 0, outValid := false } }

/-- An open reader on the byte 0xA0 at `base`, `pos` bits delivered of `len`. -/
def reading (base : Word) (len pos : Nat) : State :=
  { State.reset with
    mem := [(0x200, 0xA0)]
    rd := { ropen := true, rbase := base, rlen := len, rpos := pos, rbyte := 0xA0, rdata := false } }

/-- The word `c` accepted in the reset state; CORE moves next. -/
def run (c : Word) : State := accept c State.reset

/-- Reset initialisation under way; `sched` says who moves next. -/
def inReset (sched : List Agent) : State :=
  { assertReset State.reset with host := { HostState.reset with sched := sched } }

/-- HOST about to run the one statement `st`. -/
def hosting (st : HostStmt) : State := { State.reset with host := { HostState.reset with prog := [st] } }

/-! ## WellFormed refuses -/

theorem test_wf_refuses_a_write_of_two_bytes :
    HostStmt.wf 65536 1 (.wr 0x020 2 0) = false := by decide

theorem test_wf_refuses_an_unaligned_write :
    HostStmt.wf 65536 1 (.wr 0x022 4 0) = false := by decide

theorem test_wf_refuses_a_write_outside_the_block :
    HostStmt.wf 65536 1 (.wr 0x1000 4 0) = false := by decide

theorem test_wf_refuses_ill_formed_reads :
    HostStmt.wf 65536 1 (.rd 0x014 1) = false ∧ HostStmt.wf 65536 1 (.rd 0x015 4) = false ∧
    HostStmt.wf 65536 1 (.rd 0x1000 4) = false ∧ HostStmt.wf 65536 1 (.rdCheck 0x016 0) = false ∧
    HostStmt.wf 65536 1 (.rdCheck 0x1000 0) = false := by decide

theorem test_wf_refuses_ill_formed_jumps :
    HostStmt.wf 65536 1 (.jnz 0x015 1 0) = false ∧ HostStmt.wf 65536 1 (.jnz 0x1000 1 0) = false ∧
    HostStmt.wf 65536 1 (.jnz 0x014 1 2) = false ∧ HostStmt.wf 65536 1 (.jnz 0x014 1 1) = true := by decide

theorem test_wf_refuses_absent_bytes :
    HostStmt.wf 65536 1 (.memWr 65536 0) = false ∧ HostStmt.wf 65536 1 (.memRd 65536) = false ∧
    HostStmt.wf 65536 1 (.memRd 65535) = true := by decide

theorem test_wf_refuses_an_undefined_label :
    SrcLine.progWf 65536 [⟨none, .jnz .status 1 "L"⟩] = false := by decide

theorem test_wf_refuses_a_duplicate_label :
    SrcLine.progWf 65536 [⟨some "L", .wait⟩, ⟨some "L", .wait⟩] = false := by decide

theorem test_wf_refuses_mem_beyond_the_end :
    SrcLine.progWf 65536 [⟨none, .mem 0xFFFF [1, 2]⟩] = false ∧
    SrcLine.progWf 65536 [⟨none, .mem 0xFFFF [1]⟩] = true := by decide

theorem test_wf_accepts_every_command :
    Instr.wf .nop = true ∧ Instr.wf (.wbit true) = true ∧ Instr.wf .rclose = true := by decide

/-! ## Decoding: OP in bits 3:0, B in bit 8, every other bit 0 (30_encoding.md R130, R132) -/

theorem test_decode_nop :
    decode 0b00000000000000000000000_0_0000_0000#32 = .ok .nop ∧
    decodeTableWord 32 0x00000000 = some .nop := by decide

theorem test_decode_analyze :
    decode 0b00000000000000000000000_0_0000_0001#32 = .ok .analyze ∧
    decodeTableWord 32 0x00000001 = some .analyze := by decide

theorem test_decode_buildtree :
    decode 0b00000000000000000000000_0_0000_0010#32 = .ok .buildtree ∧
    decodeTableWord 32 0x00000002 = some .buildtree := by decide

theorem test_decode_buildtable :
    decode 0b00000000000000000000000_0_0000_0011#32 = .ok .buildtable ∧
    decodeTableWord 32 0x00000003 = some .buildtable := by decide

theorem test_decode_compress :
    decode 0b00000000000000000000000_0_0000_0100#32 = .ok .compress ∧
    decodeTableWord 32 0x00000004 = some .compress := by decide

theorem test_decode_decompress :
    decode 0b00000000000000000000000_0_0000_0101#32 = .ok .decompress ∧
    decodeTableWord 32 0x00000005 = some .decompress := by decide

theorem test_decode_clear :
    decode 0b00000000000000000000000_0_0000_0110#32 = .ok .clear ∧
    decodeTableWord 32 0x00000006 = some .clear := by decide

theorem test_decode_wopen :
    decode 0b00000000000000000000000_0_0000_0111#32 = .ok .wopen ∧
    decodeTableWord 32 0x00000007 = some .wopen := by decide

theorem test_decode_wclose :
    decode 0b00000000000000000000000_0_0000_1001#32 = .ok .wclose ∧
    decodeTableWord 32 0x00000009 = some .wclose := by decide

theorem test_decode_ropen :
    decode 0b00000000000000000000000_0_0000_1010#32 = .ok .ropen ∧
    decodeTableWord 32 0x0000000A = some .ropen := by decide

theorem test_decode_rbit :
    decode 0b00000000000000000000000_0_0000_1011#32 = .ok .rbit ∧
    decodeTableWord 32 0x0000000B = some .rbit := by decide

theorem test_decode_rclose :
    decode 0b00000000000000000000000_0_0000_1100#32 = .ok .rclose ∧
    decodeTableWord 32 0x0000000C = some .rclose := by decide

theorem test_decode_wbit :
    decode 0b00000000000000000000000_0_0000_1000#32 = .ok (.wbit false) ∧
    decode 0b00000000000000000000000_1_0000_1000#32 = .ok (.wbit true) := by decide

/-- 95_test_vectors.md 2.1. -/
theorem test_decode_refuses_reserved_opcodes :
    decode 0x0000000D#32 = .error .reservedOpcode ∧ decode 0x0000000E#32 = .error .reservedOpcode ∧
    decode 0x0000000F#32 = .error .reservedOpcode := by decide

/-- 95_test_vectors.md 2.1. -/
theorem test_decode_refuses_reserved_bits :
    decode 0x00000010#32 = .error .reservedBitSet ∧ decode 0x00000200#32 = .error .reservedBitSet ∧
    decode 0x80000001#32 = .error .reservedBitSet := by decide

/-- 95_test_vectors.md 2.1. -/
theorem test_decode_refuses_the_operand_bit :
    decode 0x00000101#32 = .error .operandNotAllowed ∧ decode 0x00000109#32 = .error .operandNotAllowed := by decide

/-! ## One step -/

/-- What one step leaves, seen through `f`. -/
def sees {α : Type} (o : Host.Outcome State Fault Refusal) (f : State → α) : Option α :=
  match o with
  | .next t => some (f t)
  | .fault _ => none
  | .refused _ => none

/-- 95_test_vectors.md 2.1. -/
theorem test_step_nop_from_reset :
    sees (step ((State.reset).withFetchWord 32 0x0)) (fun t => (t.statusWord, t.errAddr, t.errInfo)) =
      some (0x2#32, 0#32, 0#32) := by decide

/-- 95_test_vectors.md 2.1. -/
theorem test_step_illegal_word :
    sees (step ((State.reset).withFetchWord 32 0x101)) (fun t => (t.statusWord, t.errAddr, t.errInfo)) =
      some (0x36#32, 0#32, 0x101#32) := by decide

/-- 41_histogram.md R200 on "ab". -/
theorem test_step_analyze :
    sees (step ((ab).withFetchWord 32 0x1)) (fun t => (t.statusWord, t.hist)) =
      some (0x2#32, [(0x61, 1#32), (0x62, 1#32)]) := by decide

/-- 95_test_vectors.md 2.3: no wrap at 2^32. -/
theorem test_step_analyze_no_wrap :
    sees (step (({ State.reset with inAddr := 0xFFFFFFFF, inLen := 1 }).withFetchWord 32 0x1)) (fun t => (t.statusWord, t.errAddr, t.errInfo)) =
      some (0x16#32, 0xFFFFFFFF#32, 0x100#32) := by decide

/-- 95_test_vectors.md 2.4: the leaf of weight 2 wins the tie against the internal node. -/
theorem test_step_buildtree :
    sees (step (({ State.reset with hist := [(0x61, 1), (0x62, 1), (0x63, 2)] }).withFetchWord 32 0x2)) (fun t => (t.tree.root, t.nodeAt 3, t.nodeAt 4)) =
      some (4, ⟨false, 0, 2, 0, 1⟩, ⟨false, 0, 4, 2, 3⟩) := by decide

/-- 95_test_vectors.md 2.4: the weight does not wrap. -/
theorem test_step_buildtree_wide_weight :
    sees (step (({ State.reset with hist := [(0, 0xFFFFFFFF), (0xFF, 0xFFFFFFFF)] }).withFetchWord 32 0x2)) (fun t => (t.nodeAt 2).w) =
      some 0x1FFFFFFFE := by decide

/-- 95_test_vectors.md 2.4, "ab". -/
theorem test_step_buildtable :
    sees (step ((abBuilt).withFetchWord 32 0x3)) (fun t => (t.codeAt 0x61, t.codeAt 0x62)) =
      some ([false], [true]) := by decide

/-- 95_test_vectors.md E3: the code "1". -/
theorem test_step_buildtable_of_one_leaf :
    sees (step ((aa2).withFetchWord 32 0x3)) (fun t => t.codeAt 0x61) =
      some [true] := by decide

/-- 95_test_vectors.md 2.5, "ab". -/
theorem test_step_compress :
    sees (step ((abBuilt).withFetchWord 32 0x4)) (fun t => (t.statusWord, t.wr.wbits, t.wr.wbytes, t.mem.read 0x200)) =
      some (0x602#32, 2, 1, 0x40#8) := by decide

/-- 44_encode.md R272: the partial byte is flushed, OUT_VALID is 0. -/
theorem test_step_compress_absent :
    sees (step (({ abBuilt with mem := [(0x100, 0x61), (0x101, 0x7A)] }).withFetchWord 32 0x4)) (fun t => (t.statusWord, t.errAddr, t.errInfo, t.wr.wbytes)) =
      some (0x226#32, 0x101#32, 0x7A#32, 1) := by decide

/-- 95_test_vectors.md 2.5, "ab". -/
theorem test_step_decompress :
    sees (step (({ abBuilt with mem := [(0x200, 0x40)], srcBits := 2 }).withFetchWord 32 0x5)) (fun t => (t.statusWord, t.dstLen, t.mem.read 0x300, t.mem.read 0x301)) =
      some (0xA02#32, 2, 0x61#8, 0x62#8) := by decide

/-- 95_test_vectors.md 2.5: 8 bits give "abaaaaaa". -/
theorem test_step_decompress_overread :
    sees (step (({ abBuilt with mem := [(0x200, 0x40)], srcBits := 8 }).withFetchWord 32 0x5)) (fun t => (t.dstLen, t.mem.readLE 0x300 8)) =
      some (8, 0x6161616161616261) := by decide

/-- 46_control.md R331. -/
theorem test_step_clear :
    sees (step (({ abBuilt with wr := (writing 0x200 0x05 3).wr, hsel := 7 }).withFetchWord 32 0x6)) (fun t => (t.statusWord, t.tree.nnodes, t.wr.wbits, t.hsel, t.mem.read 0x100)) =
      some (0x2#32, 0, 0, 7#16, 0x61#8) := by decide

/-- 95_test_vectors.md 2.2. -/
theorem test_step_wopen :
    sees (step (({ State.reset with outAddr := 0x200 }).withFetchWord 32 0x7)) (fun t => (t.statusWord, t.wr.wbase)) =
      some (0x1002#32, 0x200#32) := by decide

/-- 95_test_vectors.md 2.2, third bit. -/
theorem test_step_wbit :
    sees (step ((writing 0x200 0x02 2).withFetchWord 32 0x108)) (fun t => (t.statusWord, regValue .wstate t, t.wr.wbits)) =
      some (0x1002#32, 0x305#32, 3) := by decide

/-- 95_test_vectors.md 2.2: WCNT 8 is kept. -/
theorem test_step_wbit_at_the_top :
    sees (step ((writing 0x10000 0x7F 7).withFetchWord 32 0x108)) (fun t => (t.statusWord, t.errAddr, t.errInfo, regValue .wstate t)) =
      some (0x16#32, 0x10000#32, 0x801#32, 0x8FF#32) := by decide

/-- 95_test_vectors.md 2.2. -/
theorem test_step_wclose :
    sees (step ((writing 0x200 0x05 3).withFetchWord 32 0x9)) (fun t => (t.statusWord, regValue .wstate t, t.wr.wbytes, t.mem.read 0x200)) =
      some (0x402#32, 0#32, 1, 0xA0#8) := by decide

/-- 95_test_vectors.md 2.2. -/
theorem test_step_wclose_beyond_the_end :
    sees (step ((writing 0x10000 0x01 1).withFetchWord 32 0x9)) (fun t => (t.statusWord, t.errAddr, t.errInfo, regValue .wstate t)) =
      some (0x16#32, 0x10000#32, 0x901#32, 0x101#32) := by decide

/-- 95_test_vectors.md 2.2. -/
theorem test_step_ropen :
    sees (step (({ State.reset with srcAddr := 0x200, srcBits := 3 }).withFetchWord 32 0xA)) (fun t => (t.statusWord, t.rd.rlen, t.rd.rpos)) =
      some (0x6002#32, 3, 0) := by decide

/-- 95_test_vectors.md 2.2, first bit. -/
theorem test_step_rbit :
    sees (step ((reading 0x200 3 0).withFetchWord 32 0xB)) (fun t => (t.statusWord, regValue .rstate t, t.rd.rpos)) =
      some (0x6002#32, 1#32, 1) := by decide

/-- 95_test_vectors.md 2.2, EOS. -/
theorem test_step_rbit_at_the_end :
    sees (step ((reading 0x200 3 3).withFetchWord 32 0xB)) (fun t => (t.statusWord, t.errInfo, t.rd.rpos)) =
      some (0x2056#32, 0xB#32, 3) := by decide

/-- 95_test_vectors.md 2.2. -/
theorem test_step_rclose :
    sees (step ((reading 0x200 3 3).withFetchWord 32 0xC)) (fun t => (t.statusWord, t.rd.rpos)) =
      some (0x2#32, 3) := by decide

/-- The model's choice (log 24). -/
theorem test_mem_lines_later_one_holds :
    (launchMem [⟨none, .mem 0x10 [1]⟩, ⟨none, .mem 0x10 [2]⟩] []).read 0x10 = 2#8 := by decide

/-- 95_test_vectors.md 2.4, window reads after E1: CWORD of code "110" is 0xC0000000. -/
theorem test_cword_of_110 :
    cwordValue [true, true, false] 0 = 0xC0000000#32 ∧ cwordValue [true, true, false] 1 = 0#32 := by decide

/-- 30_encoding.md R138, R139: `run NOP` starts with the CMD write. -/
theorem test_host_program_runs_a_command :
    (loadProgram [⟨none, .run .nop⟩] State.reset).map (fun s => sees (step s) (fun t => (t.phase, t.host.pc))) =
      some (some (.running 0, 1)) := by decide

/-- 20_memory.md R120: the input is read up to the first error. -/
theorem test_footprint_of_compress :
    footprint .compress abBuilt = [⟨.read, 0x100, 2⟩, ⟨.write, 0x200, 1⟩] ∧
    footprint .compress { abBuilt with mem := [(0x100, 0x7A)] } = [⟨.read, 0x100, 1⟩, ⟨.write, 0x200, 0⟩] := by decide

/-! ## Witnesses: a state and operands that meet the hypotheses of each obligation, clause by clause -/

theorem witness_DecodeAndEncodeAgree :
    Instr.wf (.wbit true) = true ∧ decode 0x00000108#32 = .ok (.wbit true) := by decide

theorem witness_InvalidWordEndsWithBadcmd :
    ¬ Valid 0x00000101#32 ∧ ¬ Valid 0x0000000D#32 ∧ State.reset.phase = .idle ∧
    (run 0x101).phase = .running 0x101 ∧ nextAgent (run 0x101) = .core := ⟨by unfold Valid; decide, by unfold Valid; decide, by decide, by decide, by decide⟩

theorem witness_CmdWriteWhileIdleIsAccepted :
    State.reset.phase = .idle := by decide

theorem witness_StepRunsTheAcceptedCommand :
    (run 0x1).phase = .running 0x1 ∧ decode 0x1 = .ok .analyze ∧ nextAgent (run 0x1) = .core ∧
    (run 0x1).phase ≠ .idle ∧ (run 0x1).host.sched = [] := by decide

theorem witness_IdleStepRunsTheNextHostStatement :
    State.reset.phase = .idle ∧ State.reset.host.prog[State.reset.host.pc]? = none ∧
    (hosting (.wr 0x010 4 0)).host.prog[0]? = some (.wr 0x010 4 0) ∧
    (hosting (.rd 0x014 4)).host.prog[0]? = some (.rd 0x014 4) ∧
    (hosting (.jnz 0x014 1 0)).host.prog[0]? = some (.jnz 0x014 1 0) ∧ (hosting (.rd 0x014 4)).phase = .idle ∧
    (hosting (.rd 0x014 4)).host.pc = 0 := by decide

/-- The widths, the misalignments and the first reserved offset; the last register. -/
theorem witness_OnlyAlignedWordAccessesReachRegisters :
    regOf 0x09C 4 = some .nwgtHi ∧ regOf 0x000 4 = some .id ∧ (2 ≠ 4 ∨ 0x020 % 4 ≠ 0 ∨ 0x0A0 ≤ 0x020) ∧
    (4 ≠ 4 ∨ 0x09E % 4 ≠ 0 ∨ 0x0A0 ≤ 0x09E) ∧ (4 ≠ 4 ∨ 0x0A0 % 4 ≠ 0 ∨ 0x0A0 ≤ 0x0A0) ∧
    0x09C ∈ [0x018, 0x09C] := by decide

theorem witness_IdentificationRegistersReadTheirConstants :
    State.reset.phase ≠ .resetting ∧ State.reset.cfg.symW = .w8 ∧
    ({ State.reset with cfg := ⟨.w16, 0xFFFFFFFF⟩ } : State).phase ≠ .resetting ∧
    ({ State.reset with cfg := ⟨.w16, 0xFFFFFFFF⟩ } : State).cfg.symW = .w16 := by decide

theorem witness_StatusShowsTheStateWhileIdle :
    ab3.host.unseen = false ∧ ({ ab3 with wr := { ab3.wr with wcnt := 8 } } : State).wr.wcnt ≤ 8 ∧ ab3.phase = .idle ∧ ab3.tree.kind = .normal ∧ aa3.phase = .idle ∧ aa3.tree.kind = .degen ∧
    ab.phase = .idle ∧ ab.tree.kind = .empty := by decide

theorem witness_ReadsWhileACommandRuns :
    (run 0x1).phase = .running 0x1 ∧ RecordInv (run 0x1) := by decide

theorem witness_WritesWhileACommandRunsAreDropped :
    (run 0x1).phase = .running 0x1 ∧ 0x010 ∈ [0x010, 0x088] ∧ 0x088 ∈ [0x010, 0x088] ∧
    0x08C ∉ [0x010, 0x020, 0x024, 0x028, 0x03C, 0x040, 0x044, 0x048, 0x070, 0x074, 0x078, 0x07C, 0x088, 0x00C, 0x014] := by decide

theorem witness_StatusWriteClearsDoneAndOvr :
    ab1.phase ≠ .resetting ∧ ab1.done = true ∧ (inReset []).phase = .resetting := by decide

theorem witness_ResetInitialisationIgnoresEveryWrite :
    (inReset []).phase = .resetting := by decide

theorem witness_ConfigurationWritesReadBack :
    ab.phase = .idle := by decide

theorem witness_HistogramWindow :
    ab1.phase = .idle ∧ Sparse.wf (0 : Word) ab1.hist ∧ ab1.host.unseen = false := by decide

theorem witness_CodeTableWindow :
    ab3.phase = .idle ∧ ab3.host.unseen = false ∧ (31 : Nat) < 32 ∧ (ab3.codeAt 0x61).length = 1 := by decide

/-- The tree of "ab" meets the tree invariant. -/
theorem abBuilt_tree : TreeInv abBuilt :=
  ⟨by decide, by decide, by decide, by decide, by decide, by decide, by decide, by decide, by decide, by decide⟩

/-- The tree of "aa" meets the tree invariant. -/
theorem aa2_tree : TreeInv aa2 :=
  ⟨by decide, by decide, by decide, by decide, by decide, by decide, by decide, by decide, by decide, by decide⟩

/-- A state with a NORMAL tree and a table meets every invariant. -/
theorem abBuilt_inv : Inv abBuilt :=
  ⟨by decide, by decide, by decide, by decide, by decide, abBuilt_tree, by decide⟩

/-- NSEL below NNODES, and NSEL = NNODES. -/
theorem witness_NodeWindow :
    abBuilt.phase = .idle ∧ TreeInv abBuilt ∧ abBuilt.host.unseen = false ∧ abBuilt.nsel.toNat < abBuilt.tree.nnodes ∧
    ({ abBuilt with nsel := 3 } : State).tree.nnodes ≤ ({ abBuilt with nsel := 3 } : State).nsel.toNat := ⟨by decide, abBuilt_tree, by decide, by decide, by decide⟩

theorem witness_ReadsStayWithinTheUsedBits :
    Inv abBuilt ∧ (Reg.status = .status → abBuilt.phase ≠ .resetting) ∧
    (Reg.ninfo = .status → abBuilt.phase ≠ .resetting) := ⟨abBuilt_inv, by decide, by decide⟩

theorem witness_IrqFollowsEnableAndDone :
    (sees (runWord 0x0 (run 0x0)) (fun t => t.done)) = some true ∧ ab1.phase = .idle ∧ (2#32).getLsbD 1 = true ∧
    (0#32).getLsbD 0 = false ∧ (1#32).getLsbD 0 = true := by decide

/-- A guarded byte 0x100 that a command reads and a byte 0x200 that it writes. -/
def guarded : State :=
  { ab with host := { HostState.reset with guard := [⟨.read, 0x100, 2⟩, ⟨.write, 0x200, 1⟩], unseen := true }, ie := true
            done := true }

/-- The last byte of the read run (a write stops, a read completes), the only byte of the written run, the byte after it. -/
theorem witness_FootprintDutyOfHost :
    Memory.wf guarded.mem ∧ 0x101 < guarded.cfg.memSize ∧
    (∃ p ∈ guarded.host.guard, p.base ≤ 0x101 ∧ 0x101 < p.base + p.len) ∧
    (∃ p ∈ guarded.host.guard, p.dir = .write ∧ p.base ≤ 0x200 ∧ 0x200 < p.base + p.len) ∧
    (∀ p ∈ guarded.host.guard, 0x102 < p.base ∨ p.base + p.len ≤ 0x102) ∧
    (∀ p ∈ guarded.host.guard, p.dir = .write → 0x101 < p.base ∨ p.base + p.len ≤ 0x101) ∧ guarded.phase = .idle ∧ guarded.irq = true := by decide

theorem witness_ResetInitialisationEndsInTheResetState :
    (inReset []).phase = .resetting ∧ nextAgent (inReset []) = .core ∧ (inReset [.host]).phase = .resetting ∧
    nextAgent (inReset [.host]) = .host ∧ sees (step (inReset [.host])) (fun t => t.phase) = some .resetting := by decide

theorem witness_ResetAbandonsTheRunningCommand :
    Memory.wf (accept 0x4 abBuilt).mem ∧ (accept 0x4 abBuilt).phase = .running 0x4 ∧ decode 0x4 = .ok .compress ∧
    (∃ p ∈ footprint .compress abBuilt, p.dir = .write ∧ p.base ≤ 0x200 ∧ 0x200 < p.base + p.len) ∧
    ∀ c i, (run 0xD).phase = .running c → decode c ≠ .ok i := by
  refine ⟨by decide, by decide, by decide, by decide, ?_⟩
  intro c i h
  have : c = 0xD#32 := by injection h with h; exact h.symm
  subst this
  cases i <;> simp [decode, fieldMid, fieldHigh, fieldB, fieldOp, decodeOp]

/-- Closed; the seventh bit; the eighth bit on the last byte of memory and one beyond it. -/
theorem witness_WbitAppendsOneBit :
    (0x01#8 = BitVec.ofNat 8 (2 * State.reset.wr.wacc.toNat + true.toNat) ∧ State.reset.wr.wopen = false) ∧
    ((writing 0x200 0x3F 6).wr.wopen = true ∧ (writing 0x200 0x3F 6).wr.wcnt ≠ 7) ∧
    ((writing 0xFFFF 0x7F 7).wr.wopen = true ∧ (writing 0xFFFF 0x7F 7).wr.wcnt = 7 ∧
      (writing 0xFFFF 0x7F 7).wr.wbase.toNat + (writing 0xFFFF 0x7F 7).wr.wbytes + 1 ≤ 65536 ∧
      Memory.wf (writing 0xFFFF 0x7F 7).mem) ∧
    ((writing 0x10000 0x7F 7).wr.wopen = true ∧ (writing 0x10000 0x7F 7).wr.wcnt = 7 ∧
      (writing 0x10000 0x7F 7).cfg.memSize <
        (writing 0x10000 0x7F 7).wr.wbase.toNat + (writing 0x10000 0x7F 7).wr.wbytes + 1) := by decide

theorem witness_WcloseFlushesExactlyOnce :
    State.reset.wr.wopen = false ∧ ((writing 0x200 0 0).wr.wopen = true ∧ (writing 0x200 0 0).wr.wcnt = 0) ∧
    ((writing 0xFFFF 1 1).wr.wopen = true ∧ 0 < (writing 0xFFFF 1 1).wr.wcnt ∧ Memory.wf (writing 0xFFFF 1 1).mem ∧
      (writing 0xFFFF 1 1).wr.wbase.toNat + (writing 0xFFFF 1 1).wr.wbytes + 1 ≤ (writing 0xFFFF 1 1).cfg.memSize) ∧
    ((writing 0x10000 1 1).wr.wopen = true ∧ 0 < (writing 0x10000 1 1).wr.wcnt ∧
      (writing 0x10000 1 1).cfg.memSize <
        (writing 0x10000 1 1).wr.wbase.toNat + (writing 0x10000 1 1).wr.wbytes + 1) := by decide

theorem witness_RbitDeliversTheNextBit :
    State.reset.rd.ropen = false ∧ ((reading 0x200 3 3).rd.ropen = true ∧ (reading 0x200 3 3).rd.rlen ≤ 3) ∧
    ((reading 0x200 3 1).rd.rpos < (reading 0x200 3 1).rd.rlen ∧ (reading 0x200 3 1).rd.rpos % 8 ≠ 0) ∧
    ((reading 0xFFFF 3 0).rd.rpos < (reading 0xFFFF 3 0).rd.rlen ∧ (reading 0xFFFF 3 0).rd.rpos % 8 = 0 ∧
      (reading 0xFFFF 3 0).rd.rbase.toNat + 0 / 8 + 1 ≤ (reading 0xFFFF 3 0).cfg.memSize) ∧
    (reading 0x10000 3 0).cfg.memSize < (reading 0x10000 3 0).rd.rbase.toNat + 0 / 8 + 1 := by decide

theorem witness_HeldStreamsAreRefused :
    (writing 0x200 0 0).wr.wopen = true ∧ (reading 0x200 3 0).rd.ropen = true := by decide

theorem witness_AnalyzeCountsTheInput :
    inputInRange ab ab.inCount ∧ ab.inCount = 2 := by decide

/-- "a" on the last byte of memory, IN_LEN 2: symbol 1 does not exist. -/
def atTop : State :=
  { abBuilt with mem := [(0xFFFF, 0x61)], inAddr := 0xFFFF, inLen := 2 }

theorem witness_AnalyzeStopsAtTheFirstMissingSymbol :
    1 < atTop.inCount ∧ inputInRange atTop 1 ∧ inRange atTop (atTop.inSymAddr 1) atTop.cfg.sb = false := by decide

set_option maxRecDepth 4000 in
theorem witness_BuildtreeOfAtMostOneSymbol :
    (∀ x < State.reset.cfg.nsym, State.reset.histAt x = 0) ∧
    (0x61 < aa1.cfg.nsym ∧ aa1.histAt 0x61 ≠ 0 ∧ (∀ y < aa1.cfg.nsym, y ≠ 0x61 → aa1.histAt y = 0) ∧
      Sparse.wf Node.zero aa1.tree.node) := by decide

theorem witness_BuildtreeMakesTheGreedyTree :
    Sparse.wf Node.zero ab1.tree.node ∧ Sparse.below ab1.cfg.maxNodes ab1.tree.node ∧
    2 ≤ ((List.range ab1.cfg.nsym).filter (fun x => ab1.histAt x ≠ 0)).length := by decide

set_option maxRecDepth 4000 in
/-- Two states with one HIST and different trees before. -/
theorem witness_BuildtreeIsAFunctionOfHist :
    ab1.cfg.symW = ab2.cfg.symW ∧ (∀ x < ab1.cfg.nsym, ab1.histAt x = ab2.histAt x) ∧ ab1.tree ≠ ab2.tree ∧
    Sparse.wf Node.zero ab1.tree.node ∧ Sparse.wf Node.zero ab2.tree.node := by decide

theorem witness_PopMinTakesTheLeastKey :
    [1, 0] ≠ ([] : List Nat) ∧ [1, 0].Nodup ∧ popMin abTree.node [1, 0] = some (0, [1]) := by decide

theorem witness_BuildtableOfAtMostOneSymbol :
    aa2.tree.kind = .degen ∧ aa.tree.kind = .empty := by decide

theorem witness_BuildtableRecordsTheLeafPaths :
    TreeInv abBuilt ∧ abBuilt.tree.kind = .normal ∧ [true] ≠ ([] : List Bool) ∧
    descend abTree.node abTree.root [true] = some 1 := ⟨abBuilt_tree, by decide, by decide, by decide⟩

theorem witness_CodesArePrefixFreeAndComplete :
    TreeInv abBuilt ∧ abBuilt.tree.kind = .normal ∧ 0x61 ≠ 0x62 ∧ (after .buildtable abBuilt).codeAt 0x61 ≠ [] := ⟨abBuilt_tree, by decide, by decide, by decide⟩

theorem witness_HuffmanCodesAreOptimal :
    Sparse.wf Node.zero ab1.tree.node ∧ exec .buildtree ab1 = .next ab2 ∧ ab2.tree.kind = .normal ∧
    exec .buildtable ab2 = .next ab3 ∧
    (∀ x < ab1.cfg.nsym, ∀ y < ab1.cfg.nsym, ab1.histAt x ≠ 0 → ab1.histAt y ≠ 0 → x ≠ y →
      (if x = 0x61 then [true, true] else [false]).isPrefixOf (if y = 0x61 then [true, true] else [false]) = false) := by
  refine ⟨by decide, rfl, by decide, rfl, ?_⟩
  have two : ∀ x, ab1.histAt x ≠ 0 → x = 0x61 ∨ x = 0x62 := by
    intro x hx
    have hist : ab1.hist = [(0x61, 1), (0x62, 1)] := by decide
    rw [State.histAt, hist, Sparse.get, Sparse.get, Sparse.get] at hx
    split at hx
    · omega
    · split at hx
      · omega
      · exact absurd rfl hx
  intro x _ y _ hx hy hne
  rcases two x hx with rfl | rfl <;> rcases two y hy with rfl | rfl <;> first | exact absurd rfl hne | decide

theorem witness_CompressWritesTheArtifact :
    Memory.wf abBuilt.mem ∧ abBuilt.wr.wopen = false ∧ [false, true] = inputCode abBuilt abBuilt.inCount ∧
    inputInRange abBuilt abBuilt.inCount ∧ (∀ i < abBuilt.inCount, abBuilt.codeAt (abBuilt.inSym i) ≠ []) ∧
    FitsMem abBuilt abBuilt.outAddr.toNat 1 ∧
    Apart abBuilt.inAddr.toNat (abBuilt.inCount * abBuilt.cfg.sb) abBuilt.outAddr.toNat 1 := by decide

/-- "az" with the table of "ab", artifact at `o`: symbol 1 is absent. -/
def absentAt (o : Word) : State := { abBuilt with mem := [(0x100, 0x61), (0x101, 0x7A)], outAddr := o }

theorem witness_CompressReportsAnAbsentSymbol_flush :
    Memory.wf (absentAt 0x200).mem ∧ (absentAt 0x200).wr.wopen = false ∧ 1 < (absentAt 0x200).inCount ∧
    [false] = inputCode (absentAt 0x200) 1 ∧ inputInRange (absentAt 0x200) 2 ∧
    (∀ i < 1, (absentAt 0x200).codeAt ((absentAt 0x200).inSym i) ≠ []) ∧
    (absentAt 0x200).codeAt ((absentAt 0x200).inSym 1) = [] ∧ FitsMem (absentAt 0x200) (absentAt 0x200).outAddr.toNat 0 ∧
    Apart (absentAt 0x200).inAddr.toNat 2 (absentAt 0x200).outAddr.toNat 1 ∧
    FitsMem (absentAt 0x200) (absentAt 0x200).outAddr.toNat 1 := by decide

theorem witness_CompressReportsAnAbsentSymbol_no_flush :
    Memory.wf (absentAt 0x10000).mem ∧ (absentAt 0x10000).wr.wopen = false ∧ 1 < (absentAt 0x10000).inCount ∧
    [false] = inputCode (absentAt 0x10000) 1 ∧ inputInRange (absentAt 0x10000) 2 ∧
    (∀ i < 1, (absentAt 0x10000).codeAt ((absentAt 0x10000).inSym i) ≠ []) ∧
    (absentAt 0x10000).codeAt ((absentAt 0x10000).inSym 1) = [] ∧ FitsMem (absentAt 0x10000) (absentAt 0x10000).outAddr.toNat 0 ∧
    Apart (absentAt 0x10000).inAddr.toNat 2 (absentAt 0x10000).outAddr.toNat 1 ∧
    ¬ FitsMem (absentAt 0x10000) (absentAt 0x10000).outAddr.toNat 1 := by decide

/-- `atTop` with the artifact at 0x200. -/
def inputCase : State := { atTop with outAddr := 0x200 }

theorem witness_CompressOnABusError_input :
    Memory.wf inputCase.mem ∧ inputCase.wr.wopen = false ∧ 1 < inputCase.inCount ∧ [false] = inputCode inputCase 1 ∧
    inputInRange inputCase 1 ∧ inRange inputCase (inputCase.inSymAddr 1) inputCase.cfg.sb = false ∧
    (∀ i < 1, inputCase.codeAt (inputCase.inSym i) ≠ []) ∧ FitsMem inputCase inputCase.outAddr.toNat 0 ∧
    Apart inputCase.inAddr.toNat (1 * inputCase.cfg.sb) inputCase.outAddr.toNat 1 ∧ FitsMem inputCase inputCase.outAddr.toNat 1 := by decide

/-- `atTop` with the artifact at 0x10000. -/
def inputNoFlushCase : State := { atTop with outAddr := 0x10000 }

theorem witness_CompressOnABusError_input_no_flush :
    Memory.wf inputNoFlushCase.mem ∧ inputNoFlushCase.wr.wopen = false ∧ 1 < inputNoFlushCase.inCount ∧ [false] = inputCode inputNoFlushCase 1 ∧
    inputInRange inputNoFlushCase 1 ∧ inRange inputNoFlushCase (inputNoFlushCase.inSymAddr 1) inputNoFlushCase.cfg.sb = false ∧
    (∀ i < 1, inputNoFlushCase.codeAt (inputNoFlushCase.inSym i) ≠ []) ∧ FitsMem inputNoFlushCase inputNoFlushCase.outAddr.toNat 0 ∧
    Apart inputNoFlushCase.inAddr.toNat (1 * inputNoFlushCase.cfg.sb) inputNoFlushCase.outAddr.toNat 1 ∧ ¬ FitsMem inputNoFlushCase inputNoFlushCase.outAddr.toNat 1 := by decide

/-- `abBuilt` with the artifact just beyond the last byte of memory. -/
def outBeyond : State := { abBuilt with outAddr := 0x10000 }

theorem witness_CompressOnABusError_output :
    Memory.wf outBeyond.mem ∧ outBeyond.wr.wopen = false ∧ [false, true] = inputCode outBeyond outBeyond.inCount ∧
    outBeyond.inCount ≤ outBeyond.inCount ∧ inputInRange outBeyond outBeyond.inCount ∧ (∀ i < outBeyond.inCount, outBeyond.codeAt (outBeyond.inSym i) ≠ []) ∧
    ¬ FitsMem outBeyond outBeyond.outAddr.toNat 1 ∧
    Apart outBeyond.inAddr.toNat (outBeyond.inCount * outBeyond.cfg.sb) outBeyond.outAddr.toNat
      (outBeyond.cfg.memSize - outBeyond.outAddr.toNat) := by decide

/-- "aaaaaaaaz" with the table of "ab" and the artifact just beyond the last byte of memory: the eighth bit fails before
the symbol without a code is read. -/
def fullByteBeyond : State :=
  { abBuilt with mem := placeBytes (List.replicate 8 0x61 ++ [0x7A]) 0x100 [], inLen := 9, outAddr := 0x10000 }

theorem witness_CompressOnABusError_full_byte :
    Memory.wf fullByteBeyond.mem ∧ fullByteBeyond.wr.wopen = false ∧ 8 ≤ fullByteBeyond.inCount ∧
    List.replicate 8 false = inputCode fullByteBeyond 8 ∧ inputInRange fullByteBeyond 8 ∧
    (∀ i < 8, fullByteBeyond.codeAt (fullByteBeyond.inSym i) ≠ []) ∧
    ¬ FitsMem fullByteBeyond fullByteBeyond.outAddr.toNat (8 / 8) ∧
    Apart fullByteBeyond.inAddr.toNat (8 * fullByteBeyond.cfg.sb) fullByteBeyond.outAddr.toNat
      (fullByteBeyond.cfg.memSize - fullByteBeyond.outAddr.toNat) := by decide

/-- A run that ends normally and one that ends in BUS. -/
theorem witness_CompressChangesOnlyItsArtifact :
    abBuilt.wr.wopen = false ∧ abBuilt.err = false ∧ abBuilt.errcode = .none ∧
    sees (exec .compress abBuilt) (fun t => t.err) = some false ∧
    sees (exec .compress outBeyond) (fun t => t.err) = some true := by decide

theorem witness_DecompressOfTheEmptyTree :
    ab.rd.ropen = false ∧ ab.tree.kind = .empty := by decide

/-- `ab5` holds the tree of `abBuilt`, which meets the tree invariant. -/
theorem witness_DecompressWritesTheSpelledSymbols :
    Memory.wf ab5.mem ∧ ab5.tree = abTree ∧ ab5.tree.kind ≠ .empty ∧ ab5.rd.ropen = false ∧ 2 = ab5.srcBits.toNat ∧
    [0x61, 0x62] = decodedSyms ab5.tree (artifactBits ab5.mem ab5.srcAddr.toNat 2) ∧
    FitsMem ab5 ab5.srcAddr.toNat 1 ∧ FitsMem ab5 ab5.dstAddr.toNat 2 ∧ Apart ab5.srcAddr.toNat 1 ab5.dstAddr.toNat 2 ∧
    TreeInv abBuilt := ⟨by decide, by decide, by decide, by decide, by decide, by decide, by decide, by decide, by decide, abBuilt_tree⟩

theorem witness_DecompressWritesTheSpelledSymbols_degen :
    Memory.wf aa5.mem ∧ aa5.tree = aa2.tree ∧ aa5.tree.kind = .degen ∧ aa5.rd.ropen = false ∧ 2 = aa5.srcBits.toNat ∧
    [0x61, 0x61] = decodedSyms aa5.tree (artifactBits aa5.mem aa5.srcAddr.toNat 2) ∧
    FitsMem aa5 aa5.srcAddr.toNat 1 ∧ FitsMem aa5 aa5.dstAddr.toNat 2 ∧ Apart aa5.srcAddr.toNat 1 aa5.dstAddr.toNat 2 ∧
    TreeInv aa2 := ⟨by decide, by decide, by decide, by decide, by decide, by decide, by decide, by decide, by decide, aa2_tree⟩

/-- `abBuilt` set to decode `n` bits from `src` to `dst`. -/
def decoding (src dst : Word) (n : BitVec 64) : State := { abBuilt with srcAddr := src, dstAddr := dst, srcBits := n }

/-- A failed artifact read, a failed output write, a normal end; the tree is `abBuilt`'s. -/
theorem witness_DecompressFrameAndBusErrors :
    (decoding 0x10000 0x300 1).rd.ropen = false ∧ (decoding 0x10000 0x300 1).err = false ∧
    (decoding 0x10000 0x300 1).errcode = .none ∧ (decoding 0x10000 0x300 1).tree.kind ≠ .empty ∧ TreeInv abBuilt ∧
    sees (exec .decompress (decoding 0x10000 0x300 1)) (fun t => t.errInfo) = some 0x500#32 ∧
    sees (exec .decompress (decoding 0x200 0x10000 1)) (fun t => t.errInfo) = some 0x501#32 ∧
    sees (exec .decompress (decoding 0x200 0x300 1)) (fun t => t.err) = some false := ⟨by decide, by decide, by decide, by decide, abBuilt_tree, by decide, by decide, by decide⟩

theorem witness_PaddingSpellsExtraSymbols :
    TreeInv abBuilt ∧ abBuilt.tree.kind = .normal ∧
    exec .buildtable abBuilt = .next (after .buildtable abBuilt) ∧
    (∀ x ∈ [0x61, 0x62], (after .buildtable abBuilt).codeAt x ≠ []) ∧
    (after .buildtable abBuilt).codeAt 0x61 = List.replicate 1 false ∧ (1 : Nat) ≠ 0 := ⟨abBuilt_tree, by decide, rfl, by decide, by decide, by decide⟩

theorem witness_CompressThenDecompressGivesTheInput :
    Memory.wf ab.mem ∧ Sparse.wf Node.zero ab.tree.node ∧ ab.err = false ∧ ab.rd.ropen = false ∧
    exec .analyze ab = .next ab1 ∧ ab1.err = false ∧ exec .buildtree ab1 = .next ab2 ∧
    exec .buildtable ab2 = .next ab3 ∧ exec .compress ab3 = .next ab4 ∧ ab4.err = false ∧
    Apart ab.inAddr.toNat (ab.inCount * ab.cfg.sb) ab.outAddr.toNat ab4.wr.wbytes ∧
    Apart (0x300#32).toNat (ab.inCount * ab.cfg.sb) ab.outAddr.toNat ab4.wr.wbytes ∧
    FitsMem ab (0x300#32).toNat (ab.inCount * ab.cfg.sb) :=
  ⟨by decide, by decide, by decide, by decide, rfl, by decide, rfl, rfl, rfl, by decide, by decide, by decide, by decide⟩

theorem witness_EveryAcceptedWordCompletes :
    (run 0xD).phase = .running 0xD ∧ nextAgent (run 0xD) = .core := by decide

theorem witness_EachCommandWritesOnlyItsOwnState :
    exec .wopen ab = .next (after .wopen ab) ∧ exec .nop ab = .next (after .nop ab) := ⟨rfl, rfl⟩

/-- The bytes just above and just below the artifact. -/
theorem witness_CommandsWriteOnlyTheirFootprint :
    exec .compress abBuilt = .next (after .compress abBuilt) ∧
    (∀ p ∈ footprint .compress abBuilt, p.dir = .write → 0x201 < p.base ∨ p.base + p.len ≤ 0x201) ∧
    (∀ p ∈ footprint .compress abBuilt, p.dir = .write → 0x1FF < p.base ∨ p.base + p.len ≤ 0x1FF) := ⟨rfl, by decide, by decide⟩

/-- Memories that differ just below and just above the input; each byte a of a run is base + d. -/
theorem witness_CommandsDependOnlyOnTheirFootprint :
    Memory.wf abBuilt.mem ∧ Memory.wf (abBuilt.mem.write 0xFF 0x99) ∧ Memory.wf (abBuilt.mem.write 0x102 0x99) ∧
    (∀ p ∈ footprint .compress abBuilt, ∀ d < p.len,
      (abBuilt.mem.write 0xFF 0x99).read (p.base + d) = abBuilt.mem.read (p.base + d)) ∧
    (∀ p ∈ footprint .compress abBuilt, ∀ d < p.len,
      (abBuilt.mem.write 0x102 0x99).read (p.base + d) = abBuilt.mem.read (p.base + d)) ∧
    abBuilt.mem.write 0xFF 0x99 ≠ abBuilt.mem := by decide

theorem witness_ErrorRecordsAreThoseOfTheTable :
    ab.err = false ∧ ab.errcode = .none ∧ sees (exec .rbit ab) (fun t => (t.err, t.errcode)) = some (true, .stream) ∧
    sees (exec .nop ab) (fun t => (t.err, t.errcode)) = some (false, .none) := by decide

theorem witness_MemoryStaysCanonical :
    MemInv (accept 0x4 abBuilt) ∧ step (accept 0x4 abBuilt) = .next (after .compress (popSched (accept 0x4 abBuilt))) := ⟨by decide, rfl⟩

theorem witness_TheTreeStaysATree :
    TreeInv (accept 0x2 abBuilt) ∧ step (accept 0x2 abBuilt) = .next (after .buildtree (popSched (accept 0x2 abBuilt))) := ⟨abBuilt_tree, rfl⟩

theorem witness_TheCodeTableStaysPrefixFree :
    TreeInv (accept 0x3 abBuilt) ∧ TableInv (accept 0x3 abBuilt) ∧
    step (accept 0x3 abBuilt) = .next (after .buildtable (popSched (accept 0x3 abBuilt))) := ⟨abBuilt_tree, by decide, rfl⟩

theorem witness_StreamCountersStayConsistent :
    WriterInv (accept 0x108 (writing 0x200 0x7F 7)) ∧ ReaderInv (accept 0x108 (writing 0x200 0x7F 7)) ∧
    step (accept 0x108 (writing 0x200 0x7F 7)) =
      .next (after (.wbit true) (popSched (accept 0x108 (writing 0x200 0x7F 7)))) := ⟨by decide, by decide, rfl⟩

theorem witness_RecordAndSelectorsStayWellFormed :
    RecordInv (run 0xD) ∧ HistInv (run 0xD) ∧
    step (run 0xD) = .next (raiseErr (badcmdErr 0xD) (popSched (run 0xD))) := ⟨by decide, by decide, rfl⟩

end Sys2Proof.Tests
end

section
/-! A register write in each phase, and the STATUS write (10_state.md R44). -/

namespace Sys2Proof.Machine

/-- 70_reset_and_hazards.md R402. -/
theorem writeReg_of_resetting (r : Reg) (v : Word) {s : State} (h : s.phase = .resetting) : writeReg r v s = s := by
  simp only [writeReg, h]

theorem writeReg_of_idle (r : Reg) (v : Word) {s : State} (h : s.phase = .idle) :
    writeReg r v s = writeIdle r v s := by
  simp only [writeReg, h]

theorem writeReg_of_running (r : Reg) (v : Word) {s : State} {c : Word} (h : s.phase = .running c) :
    writeReg r v s = writeRunning r v s := by
  simp only [writeReg, h]

/-- Outside reset initialisation a STATUS write has one and the same effect, whether a command runs or not. -/
theorem writeReg_status_of_not_resetting (v : Word) {s : State} (h : s.phase ≠ .resetting) :
    writeReg .status v s = writeStatus v s := by
  cases hp : s.phase with
  | idle => exact writeReg_of_idle .status v hp
  | running c => exact writeReg_of_running .status v hp
  | resetting => exact absurd hp h

/-- The masks of `writeStatus` are write-1-to-clear: a bit of `v` that is 1 clears its flag, one that is 0 keeps it. -/
theorem writeStatus_eq (v : Word) (s : State) :
    writeStatus v s =
      { s with
        done := if v.getLsbD 1 then false else s.done
        ovr := if v.getLsbD 3 then false else s.ovr } := by
  have clear : ∀ flag bit : Bool, (flag && !bit) = if bit then false else flag := by decide
  simp only [writeStatus, clear]

/-- Settles O13: outside reset initialisation both phases run `writeStatus`; during it every write is ignored. -/
theorem statusWriteClearsDoneAndOvr : Obligations.StatusWriteClearsDoneAndOvr := by
  intro s v
  have reach : busWrite 0x014 4 v s = writeReg .status v s := busWrite_offsetOf .status v s
  rw [reach]
  constructor
  · intro h
    rw [writeReg_status_of_not_resetting v h, writeStatus_eq]
  · intro h
    exact writeReg_of_resetting .status v h

end Sys2Proof.Machine
end

section
/-! The decoder and the encoder, field by field (30_encoding.md R130, R132, R134): a word decodes to a command exactly
when it is the command's word. From that, the match and mask of every command (R135). -/

namespace Sys2Proof

/-- The four fields fill the word (30_encoding.md R130). -/
theorem toNat_eq_fields (c : Word) :
    c.toNat = fieldOp c + 0x10 * fieldMid c + 0x100 * (fieldB c).toNat + 0x200 * fieldHigh c := by
  have bound : c.toNat < 2 ^ 32 := c.isLt
  simp only [fieldOp, fieldMid, fieldHigh, fieldB, BitVec.extractLsb'_toNat, BitVec.getLsbD, Nat.toNat_testBit,
    Nat.shiftRight_eq_div_pow]
  omega

theorem eq_of_fields_eq {c d : Word} (hop : fieldOp c = fieldOp d) (hmid : fieldMid c = fieldMid d)
    (hb : fieldB c = fieldB d) (hhigh : fieldHigh c = fieldHigh d) : c = d := by
  apply BitVec.eq_of_toNat_eq
  rw [toNat_eq_fields c, toNat_eq_fields d, hop, hmid, hb, hhigh]

/-- `EncodingFields`, for every command at once. -/
theorem encode_fields : ∀ i : Instr, Laws.EncodingFields.Statement i
  | .nop => Laws.EncodingFields.nop
  | .analyze => Laws.EncodingFields.analyze
  | .buildtree => Laws.EncodingFields.buildtree
  | .buildtable => Laws.EncodingFields.buildtable
  | .compress => Laws.EncodingFields.compress
  | .decompress => Laws.EncodingFields.decompress
  | .clear => Laws.EncodingFields.clear
  | .wopen => Laws.EncodingFields.wopen
  | .wbit b => Laws.EncodingFields.wbit b
  | .wclose => Laws.EncodingFields.wclose
  | .ropen => Laws.EncodingFields.ropen
  | .rbit => Laws.EncodingFields.rbit
  | .rclose => Laws.EncodingFields.rclose

theorem decodeOp_opcode (i : Instr) : decodeOp (opcode i) (operandBit i) = .ok i := by
  cases i <;> rfl

/-- Only WBIT has an operand (30_encoding.md R133). -/
theorem opcode_of_operandBit {i : Instr} (h : operandBit i = true) : opcode i = 0x8 := by
  cases i with
  | wbit b => rfl
  | _ => exact absurd h Bool.false_ne_true

/-- The opcode map is injective. The premise is R134's: B is 0 except for WBIT, so that no operand is lost. -/
theorem decodeOp_eq_ok {op : Nat} {b : Bool} {i : Instr} (hb : b = true → op = 0x8) (h : decodeOp op b = .ok i) :
    op = opcode i ∧ b = operandBit i := by
  unfold decodeOp at h
  split at h <;> cases h
  case h_9 => exact ⟨rfl, rfl⟩
  all_goals exact ⟨rfl, Bool.eq_false_iff.mpr fun h => absurd (hb h) (by decide)⟩

/-- Decoding in terms of the fields (30_encoding.md R134). -/
theorem decode_eq_ok_iff_fields (c : Word) (i : Instr) :
    decode c = .ok i ↔ fieldMid c = 0 ∧ fieldHigh c = 0 ∧ fieldOp c = opcode i ∧ fieldB c = operandBit i := by
  constructor
  · intro h
    unfold decode at h
    split at h
    · cases h
    next hreserved =>
      split at h
      · cases h
      next hoperand =>
        obtain ⟨hmid, hhigh⟩ : fieldMid c = 0 ∧ fieldHigh c = 0 := by simpa using hreserved
        have hb : fieldB c = true → fieldOp c = 0x8 := by simpa using hoperand
        exact ⟨hmid, hhigh, decodeOp_eq_ok hb h⟩
  · rintro ⟨hmid, hhigh, hop, hb⟩
    have hoperand : ¬ (operandBit i = true ∧ opcode i ≠ 0x8) := fun ⟨hb, hop⟩ => hop (opcode_of_operandBit hb)
    simp only [decode, hmid, hhigh, hop, hb, ne_eq, not_true_eq_false, or_self, if_false, if_neg hoperand,
      decodeOp_opcode]

/-- A word decodes to a command exactly when it is the command's word (30_encoding.md R132, R134). -/
theorem decode_eq_ok_iff (c : Word) (i : Instr) : decode c = .ok i ↔ c = encode i := by
  obtain ⟨hop, hb, hmid, hhigh⟩ := encode_fields i
  rw [decode_eq_ok_iff_fields]
  constructor
  · rintro ⟨cmid, chigh, cop, cb⟩
    exact eq_of_fields_eq (cop.trans hop.symm) (cmid.trans hmid.symm) (cb.trans hb.symm) (chigh.trans hhigh.symm)
  · rintro rfl
    exact ⟨hmid, hhigh, hop, hb⟩

/-- Under the full mask of 30_encoding.md R135 the match is the command's word. -/
theorem decode_eq_ok_iff_fullMask (c : Word) (i : Instr) : decode c = .ok i ↔ c &&& 0xFFFFFFFF#32 = encode i := by
  have full : c &&& 0xFFFFFFFF#32 = c := BitVec.and_allOnes
  rw [full, decode_eq_ok_iff]

/-- WBIT's mask of 30_encoding.md R135 hides bit 8 and nothing else. -/
theorem eq_iff_wbitMask (c d : Word) :
    c = d ↔ c &&& 0xFFFFFEFF#32 = d &&& 0xFFFFFEFF#32 ∧ c.getLsbD 8 = d.getLsbD 8 := by
  have split8 (x : Word) :
      x = (x &&& 0xFFFFFEFF#32) ||| (if x.getLsbD 8 then BitVec.twoPow 32 8 else 0#32) := by
    rw [← BitVec.and_twoPow, ← BitVec.and_or_distrib_left]
    exact BitVec.and_allOnes.symm
  constructor
  · rintro rfl
    exact ⟨rfl, rfl⟩
  · rintro ⟨hmask, hbit⟩
    rw [split8 c, split8 d, hmask, hbit]

/-- WBIT's row of 30_encoding.md R135: B is the bit its mask leaves out. -/
theorem decode_eq_ok_wbit_iff_mask (c : Word) (b : Bool) :
    decode c = .ok (.wbit b) ↔ c &&& 0xFFFFFEFF#32 = 0x00000008#32 ∧ c.getLsbD 8 = b := by
  have hmask : encode (.wbit b) &&& 0xFFFFFEFF#32 = 0x00000008#32 := by cases b <;> decide
  obtain ⟨-, hbit, -, -⟩ := encode_fields (.wbit b)
  change (encode (.wbit b)).getLsbD 8 = b at hbit
  rw [decode_eq_ok_iff, eq_iff_wbitMask, hmask, hbit]

/-- Settles O3: each row is `decode_eq_ok_iff` read under the command's mask. -/
theorem decoderFollowsMatchAndMask : Obligations.DecoderFollowsMatchAndMask := by
  intro c
  have row := decode_eq_ok_iff_fullMask c
  have total : (∃ i, decode c = .ok i) ∨ (∃ e, decode c = .error e) := by
    cases decode c with
    | ok i => exact .inl ⟨i, rfl⟩
    | error e => exact .inr ⟨e, rfl⟩
  exact ⟨row .nop, row .analyze, row .buildtree, row .buildtable, row .compress, row .decompress, row .clear,
    row .wopen, decode_eq_ok_wbit_iff_mask c, row .wclose, row .ropen, row .rbit, row .rclose, total⟩

end Sys2Proof
end

section
/-! The bitstream primitives with the premise that selects each ending (40_stream.md R164, R166, R169), the stream
commands in terms of them, and what each stream command does (40_stream.md R170 to R177). -/

namespace Sys2Proof.Machine

/-- The eighth bit fills the byte (40_stream.md R164). -/
theorem shiftIn_of_seven (b : Bool) {w : Writer} (hcnt : w.wcnt = 7) :
    shiftIn b w =
      { w with wacc := BitVec.ofNat 8 (2 * w.wacc.toNat + b.toNat), wcnt := 8, wbits := w.wbits + 1 } := by
  simp only [shiftIn, hcnt]

section
variable {s : State} (op : Nat)

/-! ### The writer's primitives, ending by ending -/

theorem writeBit_of_byte_not_full (b : Bool) (hcnt : s.wr.wcnt ≠ 7) :
    writeBit op b s = .ok () { s with wr := shiftIn b s.wr } := by
  rcases writeBit_cases op b s with ⟨-, run⟩ | ⟨hfull, -⟩ | ⟨hfull, -⟩
  · exact run
  · exact absurd hfull hcnt
  · exact absurd hfull hcnt

theorem writeBit_of_byte_full (b : Bool) (hcnt : s.wr.wcnt = 7) (hfits : s.wbyteAddr + 1 ≤ s.cfg.memSize) :
    writeBit op b s = .ok () (byteOut { s with
      wr := shiftIn b s.wr, mem := s.mem.write s.wbyteAddr (shiftIn b s.wr).wacc }) := by
  rcases writeBit_cases op b s with ⟨hne, -⟩ | ⟨-, -, run⟩ | ⟨-, hbeyond, -⟩
  · exact absurd hcnt hne
  · exact run
  · exact absurd hfits (Nat.not_le.2 hbeyond)

theorem writeBit_of_byte_full_beyond (b : Bool) (hcnt : s.wr.wcnt = 7) (hbeyond : s.cfg.memSize < s.wbyteAddr + 1) :
    writeBit op b s = .raised (busErr op s.wbyteAddr .write) (releaseWriter { s with wr := shiftIn b s.wr }) := by
  rcases writeBit_cases op b s with ⟨hne, -⟩ | ⟨-, hfits, -⟩ | ⟨-, -, run⟩
  · exact absurd hcnt hne
  · exact absurd hfits (Nat.not_le.2 hbeyond)
  · exact run

theorem wClose_of_nothing_pending (hcnt : s.wr.wcnt = 0) : wClose op s = .ok () (closeWriter s) := by
  rcases wClose_cases op s with ⟨-, run⟩ | ⟨hpos, -⟩ | ⟨hpos, -⟩
  · exact run
  · exact absurd hcnt hpos.ne'
  · exact absurd hcnt hpos.ne'

theorem wClose_of_pending (hcnt : 0 < s.wr.wcnt) (hfits : s.wbyteAddr + 1 ≤ s.cfg.memSize) :
    wClose op s =
      .ok () (closeWriter (byteOut { s with mem := s.mem.write s.wbyteAddr (paddedByte s.wr) })) := by
  rcases wClose_cases op s with ⟨hzero, -⟩ | ⟨-, -, run⟩ | ⟨-, hbeyond, -⟩
  · exact absurd hzero hcnt.ne'
  · exact run
  · exact absurd hfits (Nat.not_le.2 hbeyond)

theorem wClose_of_pending_beyond (hcnt : 0 < s.wr.wcnt) (hbeyond : s.cfg.memSize < s.wbyteAddr + 1) :
    wClose op s = .raised (busErr op s.wbyteAddr .write) (releaseWriter s) := by
  rcases wClose_cases op s with ⟨hzero, -⟩ | ⟨-, hfits, -⟩ | ⟨-, -, run⟩
  · exact absurd hzero hcnt.ne'
  · exact absurd hfits (Nat.not_le.2 hbeyond)
  · exact run

/-! ### The reader's primitive, ending by ending -/

theorem readBit_of_inside_byte (hpos : s.rd.rpos % 8 ≠ 0) :
    readBit op s = .ok (s.rd.rbyte.getLsbD (7 - s.rd.rpos % 8))
      { s with rd := { s.rd with rpos := s.rd.rpos + 1 } } := by
  rcases readBit_cases op s with ⟨-, run⟩ | ⟨hzero, -⟩ | ⟨hzero, -⟩
  · exact run
  · exact absurd hzero hpos
  · exact absurd hzero hpos

theorem readBit_of_boundary (hpos : s.rd.rpos % 8 = 0) (hfits : s.rbyteAddr + 1 ≤ s.cfg.memSize) :
    readBit op s = .ok ((s.mem.read s.rbyteAddr).getLsbD 7)
      { s with rd := { s.rd with rbyte := s.mem.read s.rbyteAddr, rpos := s.rd.rpos + 1 } } := by
  rcases readBit_cases op s with ⟨hne, -⟩ | ⟨-, -, run⟩ | ⟨-, hbeyond, -⟩
  · exact absurd hpos hne
  · exact run
  · exact absurd hfits (Nat.not_le.2 hbeyond)

theorem readBit_of_boundary_beyond (hpos : s.rd.rpos % 8 = 0) (hbeyond : s.cfg.memSize < s.rbyteAddr + 1) :
    readBit op s = .raised (busErr op s.rbyteAddr .read) (closeReader s) := by
  rcases readBit_cases op s with ⟨hne, -⟩ | ⟨-, hfits, -⟩ | ⟨-, -, run⟩
  · exact absurd hpos hne
  · exact absurd hfits (Nat.not_le.2 hbeyond)
  · exact run

theorem deliverBit_of_ok {b : Bool} {t : State} (run : readBit op s = .ok b t) :
    deliverBit op s = .ok () { t with rd := { t.rd with rdata := b } } := by
  simp only [deliverBit, run]

theorem deliverBit_of_raised {e : Err} {t : State} (run : readBit op s = .raised e t) :
    deliverBit op s = .raised e t := by
  simp only [deliverBit, run]

end

/-! ### The commands: open or closed -/

section
variable {s : State}

theorem exec_wbit_of_open (b : Bool) (hopen : s.wr.wopen = true) :
    exec (.wbit b) s = finish (writeBit 0x8 b s) := if_pos hopen

theorem exec_wbit_of_closed (b : Bool) (hclosed : s.wr.wopen = false) :
    exec (.wbit b) s = .next (endedErr .stream 0 0x8#32 s) := if_neg (Bool.eq_false_iff.1 hclosed)

theorem exec_wclose_of_open (hopen : s.wr.wopen = true) : exec .wclose s = finish (wClose 0x9 s) := if_pos hopen

theorem exec_wclose_of_closed (hclosed : s.wr.wopen = false) :
    exec .wclose s = .next (endedErr .stream 0 0x9#32 s) := if_neg (Bool.eq_false_iff.1 hclosed)

theorem exec_rbit_of_closed (hclosed : s.rd.ropen = false) :
    exec .rbit s = .next (endedErr .stream 0 0xB#32 s) := if_neg (Bool.eq_false_iff.1 hclosed)

theorem exec_rbit_of_at_end (hopen : s.rd.ropen = true) (hend : s.rd.rlen ≤ s.rd.rpos) :
    exec .rbit s = .next (endedErr .eos 0 0xB#32 s) := (if_pos hopen).trans (if_pos hend)

theorem exec_rbit_of_more (hopen : s.rd.ropen = true) (hmore : s.rd.rpos < s.rd.rlen) :
    exec .rbit s = finish (deliverBit 0xB s) := (if_pos hopen).trans (if_neg (Nat.not_le.2 hmore))

end

/-! ### The obligations -/

/-- Settles O27: the closed writer refuses; on an open one the three endings of WriteBit. -/
theorem wbitAppendsOneBit : Obligations.WbitAppendsOneBit := by
  rintro s b _ rfl
  refine ⟨?word, exec_wbit_of_closed b, ?inside, ?full, ?beyond⟩
  case word => cases b <;> rfl
  case inside =>
    intro hopen hcnt
    rw [exec_wbit_of_open b hopen, writeBit_of_byte_not_full 0x8 b hcnt]
    rfl
  case full =>
    intro hopen hcnt hfits hwf
    refine ⟨s.mem.write s.wbyteAddr (shiftIn b s.wr).wacc, ?_, Memory.read_write_same s.mem hwf _ _,
      fun a ha => Memory.read_write_other s.mem _ a _ ha⟩
    rw [exec_wbit_of_open b hopen, writeBit_of_byte_full 0x8 b hcnt hfits]
    rfl
  case beyond =>
    intro hopen hcnt hbeyond
    rw [exec_wbit_of_open b hopen, writeBit_of_byte_full_beyond 0x8 b hcnt hbeyond, shiftIn_of_seven b hcnt]
    rfl

/-- Settles O28: the closed writer refuses, so that nothing is flushed twice; on an open one the three endings of
WClose. -/
theorem wcloseFlushesExactlyOnce : Obligations.WcloseFlushesExactlyOnce := by
  intro s
  refine ⟨rfl, exec_wclose_of_closed, ?nothing, ?pending, ?beyond⟩
  case nothing =>
    intro hopen hcnt
    rw [exec_wclose_of_open hopen, wClose_of_nothing_pending 0x9 hcnt]
    rfl
  case pending =>
    intro hopen hcnt hwf hfits
    refine ⟨s.mem.write s.wbyteAddr (paddedByte s.wr), ?_, Memory.read_write_same s.mem hwf _ _,
      fun a ha => Memory.read_write_other s.mem _ a _ ha⟩
    rw [exec_wclose_of_open hopen, wClose_of_pending 0x9 hcnt hfits]
    rfl
  case beyond =>
    intro hopen hcnt hbeyond
    rw [exec_wclose_of_open hopen, wClose_of_pending_beyond 0x9 hcnt hbeyond]
    rfl

/-- Settles O29: the closed reader refuses, the reader at its end raises EOS; before it the three endings of
ReadBit. -/
theorem rbitDeliversTheNextBit : Obligations.RbitDeliversTheNextBit := by
  intro s
  refine ⟨rfl, exec_rbit_of_closed, exec_rbit_of_at_end, ?inside, ?boundary, ?beyond⟩
  case inside =>
    intro hopen hmore hpos
    rw [exec_rbit_of_more hopen hmore, deliverBit_of_ok 0xB (readBit_of_inside_byte 0xB hpos)]
    rfl
  case boundary =>
    intro hopen hmore hpos hfits
    rw [exec_rbit_of_more hopen hmore, deliverBit_of_ok 0xB (readBit_of_boundary 0xB hpos hfits)]
    rfl
  case beyond =>
    intro hopen hmore hpos hbeyond
    rw [exec_rbit_of_more hopen hmore, deliverBit_of_raised 0xB (readBit_of_boundary_beyond 0xB hpos hbeyond)]
    rfl

/-- Settles O26: each of the three commands is one test of its stream's open flag. -/
theorem openAndCloseCommands : Obligations.OpenAndCloseCommands := by
  intro s
  refine ⟨rfl, rfl, rfl, ?wopen, ?ropen, ?rclose⟩
  case wopen =>
    simp only [exec, execWopen]
    split <;> rfl
  case ropen =>
    simp only [exec, execRopen]
    split <;> rfl
  case rclose =>
    simp only [exec, execRclose]
    split <;> rfl

end Sys2Proof.Machine
end

section
/-! ANALYZE (41_histogram.md): the histogram of an input's first symbols, the loop that builds it, and both ends of the
command (R201, R204). -/

namespace Sys2Proof.Machine

/-! ### The histogram of the first symbols -/

/-- The histogram HIST of the first `k` input symbols, counted in order from the cleared one (41_histogram.md R200). -/
def histOfInput (s : State) : Nat → Sparse Word
  | 0 => []
  | k + 1 => Sparse.set 0 (histOfInput s k) (s.inSym k) (Sparse.get 0 (histOfInput s k) (s.inSym k) + 1)

theorem histOfInput_wf (s : State) (k : Nat) : Sparse.wf (0 : Word) (histOfInput s k) := by
  induction k with
  | zero => simp [histOfInput, Sparse.wf]
  | succ k ih => exact Sparse.wf_set 0 _ _ _ ih

/-- How often `x` stands among the first `k` input symbols. -/
abbrev timesInInput (s : State) (k x : Nat) : Nat :=
  ((List.range k).filter (fun i => decide (s.inSym i = x))).length

theorem timesInInput_succ (s : State) (k x : Nat) :
    timesInInput s (k + 1) x = timesInInput s k x + if s.inSym k = x then 1 else 0 := by
  by_cases h : s.inSym k = x <;> simp [timesInInput, List.range_succ, h]

theorem timesInInput_le (s : State) (k x : Nat) : timesInInput s k x ≤ k :=
  (List.length_filter_le _ _).trans_eq List.length_range

/-- No count wraps before 2^32 symbols have been counted (41_histogram.md R201). -/
theorem toNat_get_histOfInput (s : State) {k : Nat} (hk : k < 2 ^ 32) (x : Nat) :
    (Sparse.get 0 (histOfInput s k) x).toNat = timesInInput s k x := by
  induction k with
  | zero => rfl
  | succ k ih =>
    have count := ih (by omega)
    rw [timesInInput_succ, histOfInput]
    by_cases h : s.inSym k = x
    · subst h
      have bound := timesInInput_le s k (s.inSym k)
      rw [Sparse.get_set_same _ _ (histOfInput_wf s k), if_pos rfl, BitVec.toNat_add, count]
      exact Nat.mod_eq_of_lt (show timesInInput s k (s.inSym k) + 1 < 2 ^ 32 by omega)
    · rw [Sparse.get_set_other _ _ _ _ _ (Ne.symm h), if_neg h, count, Nat.add_zero]

/-- A symbol as it stands in memory is one of the alphabet (00_scope.md R6). -/
theorem inSym_lt_nsym (s : State) (i : Nat) : s.inSym i < s.cfg.nsym := by
  have alphabet : 256 ^ s.cfg.sb = s.cfg.nsym := by
    unfold Config.sb Config.nsym Config.symBits
    cases s.cfg.symW <;> rfl
  exact alphabet ▸ Memory.readLE_lt s.mem _ _

/-- Every input symbol falls into one of the NSYM classes that the histogram counts. -/
theorem sum_timesInInput (s : State) (k : Nat) :
    ((List.range s.cfg.nsym).map (timesInInput s k)).sum = k :=
  calc ((List.range s.cfg.nsym).map (timesInInput s k)).sum
      = ∑ x ∈ Finset.range s.cfg.nsym, ((Finset.range k).filter (fun i => s.inSym i = x)).card := rfl
    _ = (Finset.range k).card :=
        (Finset.card_eq_sum_card_fiberwise fun i _ => Finset.mem_range.2 (inSym_lt_nsym s i)).symm
    _ = k := Finset.card_range k

/-! ### The loop -/

section
variable (op : Nat) {s : State} {k : Nat}

/-- One pass over a symbol that exists. Counting changes neither the input nor where it stands. -/
theorem countLoop_histOfInput_succ (m : Nat) (hk : inRange s (s.inSymAddr k) s.cfg.sb = true) :
    countLoop op (m + 1) k { s with hist := histOfInput s k } =
      countLoop op m (k + 1) { s with hist := histOfInput s (k + 1) } := by
  have read : readInSym op k { s with hist := histOfInput s k } =
      .ok (s.inSym k) { s with hist := histOfInput s k } := if_pos hk
  rw [countLoop, read]
  rfl

/-- The loop over symbols the first `k` of which exist, after those `k`. -/
theorem countLoop_of_inputInRange (m : Nat) (h : inputInRange s k) :
    countLoop op (k + m) 0 { s with hist := [] } = countLoop op m k { s with hist := histOfInput s k } := by
  induction k generalizing m with
  | zero => rw [Nat.zero_add]; rfl
  | succ k ih =>
    rw [Nat.add_right_comm, Nat.add_assoc, ih (m + 1) fun i hi => h i (by omega),
      countLoop_histOfInput_succ op m (h k (by omega))]

/-- The read of a symbol that does not exist ends the loop with the counts so far (41_histogram.md R204). -/
theorem countLoop_histOfInput_of_beyond (m : Nat) (hk : inRange s (s.inSymAddr k) s.cfg.sb = false) :
    countLoop op (m + 1) k { s with hist := histOfInput s k } =
      .raised (busErr op (s.inSymAddr k) .read) { s with hist := histOfInput s k } := by
  have read : readInSym op k { s with hist := histOfInput s k } =
      .raised (busErr op (s.inSymAddr k) .read) { s with hist := histOfInput s k } :=
    if_neg (Bool.eq_false_iff.1 hk)
  rw [countLoop, read]

end

/-! ### The command and its obligations -/

theorem exec_analyze (s : State) :
    exec .analyze s = finish (countLoop 0x1 s.inCount 0 { s with hist := [] }) := rfl

/-- Settles O31: the loop runs to its end, in the histogram of the whole input. -/
theorem analyzeCountsTheInput : Obligations.AnalyzeCountsTheInput := by
  intro s hinput
  have bound : s.inCount < 2 ^ 32 := s.inLen.isLt
  have counts := toNat_get_histOfInput s bound
  refine ⟨histOfInput s s.inCount, ?ending, histOfInput_wf s s.inCount, counts, ?total, by omega⟩
  case ending =>
    have run := countLoop_of_inputInRange 0x1 0 hinput
    rw [Nat.add_zero] at run
    rw [exec_analyze, run]
    rfl
  case total =>
    simp only [counts]
    exact sum_timesInInput s s.inCount

/-- Settles O32: the loop passes the first `k` symbols and ends on the next one. -/
theorem analyzeStopsAtTheFirstMissingSymbol : Obligations.AnalyzeStopsAtTheFirstMissingSymbol := by
  intro s k hk hinput hbeyond
  have bound : s.inCount < 2 ^ 32 := s.inLen.isLt
  obtain ⟨m, hm⟩ := Nat.exists_eq_add_of_lt hk
  refine ⟨histOfInput s k, ?ending, toNat_get_histOfInput s (hk.trans bound)⟩
  rw [exec_analyze, hm, Nat.add_assoc, countLoop_of_inputInRange 0x1 (m + 1) hinput,
    countLoop_histOfInput_of_beyond 0x1 m hbeyond]
  rfl

end Sys2Proof.Machine
end

section
/-! BUILDTREE depends on HIST and SYM_W only (42_tree.md R228). Two arenas that agree below the first index not yet
written keep agreeing there, step by step, through the seeding of the leaves and through the merges; neither reads
what stands in the arena from that index on. -/

namespace Sys2Proof.Machine

/-! ### Arenas that agree below an index -/

/-- Two canonical arenas hold the same nodes at the indices below `k` (42_tree.md R228 compares NODE[0 .. NNODES-1]). -/
structure SameBelow (k : Nat) (m m' : Sparse Node) : Prop where
  wf_left : Sparse.wf Node.zero m
  wf_right : Sparse.wf Node.zero m'
  nodeAt_eq : ∀ i < k, nodeAt m i = nodeAt m' i

theorem nodeAt_setNode_same {m : Sparse Node} (hw : Sparse.wf Node.zero m) (k : Nat) (x : Node) :
    nodeAt (setNode m k x) k = x :=
  Sparse.get_set_same Node.zero m hw k x

theorem nodeAt_setNode_other (m : Sparse Node) {i k : Nat} (x : Node) (h : i ≠ k) :
    nodeAt (setNode m k x) i = nodeAt m i :=
  Sparse.get_set_other Node.zero m k i x h

namespace SameBelow

variable {k : Nat} {m m' : Sparse Node}

/-- The same node put at the next index extends the agreement by that index. -/
theorem setNode_next (h : SameBelow k m m') (x : Node) : SameBelow (k + 1) (setNode m k x) (setNode m' k x) := by
  refine ⟨Sparse.wf_set _ _ _ _ h.wf_left, Sparse.wf_set _ _ _ _ h.wf_right, fun i hi => ?_⟩
  by_cases hik : i = k
  · subst hik
    rw [nodeAt_setNode_same h.wf_left, nodeAt_setNode_same h.wf_right]
  · rw [nodeAt_setNode_other m x hik, nodeAt_setNode_other m' x hik, h.nodeAt_eq i (by omega)]

theorem keyLt_eq (h : SameBelow k m m') {i j : Nat} (hi : i < k) (hj : j < k) : keyLt m i j = keyLt m' i j := by
  simp only [keyLt, h.nodeAt_eq i hi, h.nodeAt_eq j hj]

theorem mkInternal_eq (h : SameBelow k m m') {a b : Nat} (ha : a < k) (hb : b < k) :
    Node.mkInternal m a b = Node.mkInternal m' a b := by
  simp only [Node.mkInternal, h.nodeAt_eq a ha, h.nodeAt_eq b hb]

end SameBelow

/-! ### The stages of BUILDTREE -/

theorem lt_of_popMin {m : Sparse Node} {q r : List Nat} {i k : Nat} (hq : ∀ j ∈ q, j < k)
    (h : popMin m q = some (i, r)) : i < k ∧ ∀ j ∈ r, j < k := by
  have perm := popMin_perm m q i r h
  exact ⟨hq i (perm.subset List.mem_cons_self), fun j hj => hq j (perm.subset (List.mem_cons_of_mem i hj))⟩

namespace SameBelow

variable {k : Nat} {m m' : Sparse Node}

/-- PopMin compares only nodes of the collection. -/
theorem popMin_eq (h : SameBelow k m m') {q : List Nat} (hq : ∀ i ∈ q, i < k) : popMin m q = popMin m' q := by
  induction q with
  | nil => rfl
  | cons i q ih =>
    obtain ⟨hi, hrest⟩ := List.forall_mem_cons.1 hq
    simp only [popMin, ← ih hrest]
    cases e : popMin m q with
    | none => rfl
    | some p =>
      obtain ⟨hj, -⟩ := lt_of_popMin hrest e
      simp only [h.keyLt_eq hj hi]

/-- Leaf seeding reads the counts of its symbols and nothing of the arena. -/
theorem after_seedLeaves {s s' : State} {syms : List Nat} (hcounts : ∀ x ∈ syms, s.histAt x = s'.histAt x)
    (h : SameBelow k m m') :
    SameBelow (k + syms.length) (seedLeaves s syms k m) (seedLeaves s' syms k m') := by
  induction syms generalizing k m m' with
  | nil => exact h
  | cons x xs ih =>
    obtain ⟨hx, hxs⟩ := List.forall_mem_cons.1 hcounts
    rw [seedLeaves, seedLeaves, hx, List.length_cons, Nat.add_comm xs.length, ← Nat.add_assoc]
    exact ih hxs (h.setNode_next _)

/-- The merge loop takes the same nodes out of the collection in both arenas and makes the same nodes of them. -/
theorem after_mergeLoop {n : Nat} {q : List Nat} (h : SameBelow k m m') (hq : ∀ i ∈ q, i < k) :
    (mergeLoop n m q k).2 = (mergeLoop n m' q k).2 ∧
    SameBelow (mergeLoop n m q k).2 (mergeLoop n m q k).1 (mergeLoop n m' q k).1 := by
  induction n generalizing m m' q k with
  | zero => exact ⟨rfl, h⟩
  | succ n ih =>
    simp only [mergeLoop, ← h.popMin_eq hq]
    cases first : popMin m q with
    | none => exact ⟨rfl, h⟩
    | some p =>
      obtain ⟨a, q1⟩ := p
      obtain ⟨ha, hq1⟩ := lt_of_popMin hq first
      simp only [← h.popMin_eq hq1]
      cases second : popMin m q1 with
      | none => exact ⟨rfl, h⟩
      | some p =>
        obtain ⟨b, q2⟩ := p
        obtain ⟨hb, hq2⟩ := lt_of_popMin hq1 second
        have hnext : ∀ i ∈ k :: q2, i < k + 1 :=
          List.forall_mem_cons.2 ⟨k.lt_succ_self, fun i hi => (hq2 i hi).trans k.lt_succ_self⟩
        simp only [← h.mkInternal_eq ha hb]
        exact ih (h.setNode_next _) hnext

end SameBelow

/-! ### The tree and its obligation -/

/-- Two trees with the same registers and the same nodes; the entries from NNODES on may differ (42_tree.md R228,
R230). -/
structure SameTree (t t' : Tree) : Prop where
  kind_eq : t.kind = t'.kind
  root_eq : t.root = t'.root
  nnodes_eq : t.nnodes = t'.nnodes
  nsyms_eq : t.nsyms = t'.nsyms
  nodes : SameBelow t.nnodes t.node t'.node

theorem presentSyms_eq {s s' : State} (hsym : s.cfg.symW = s'.cfg.symW)
    (hhist : ∀ x < s.cfg.nsym, s.histAt x = s'.histAt x) : presentSyms s = presentSyms s' := by
  have alphabet : s.cfg.nsym = s'.cfg.nsym := by simp only [Config.nsym, Config.symBits, hsym]
  unfold presentSyms
  rw [← alphabet]
  exact List.filter_congr fun x hx => by rw [hhist x (List.mem_range.1 hx)]

theorem lt_nsym_of_mem_presentSyms {s : State} {x : Nat} (h : x ∈ presentSyms s) : x < s.cfg.nsym :=
  List.mem_range.1 (List.mem_of_mem_filter h)

/-- BUILDTREE is a function of HIST and SYM_W, whatever stood in the arena (42_tree.md R228). -/
theorem sameTree_buildTree {s s' : State} (hsym : s.cfg.symW = s'.cfg.symW)
    (hhist : ∀ x < s.cfg.nsym, s.histAt x = s'.histAt x) (hw : Sparse.wf Node.zero s.tree.node)
    (hw' : Sparse.wf Node.zero s'.tree.node) : SameTree (buildTree s) (buildTree s') := by
  have before : SameBelow 0 s.tree.node s'.tree.node := ⟨hw, hw', fun i hi => absurd hi i.not_lt_zero⟩
  have seeded := before.after_seedLeaves fun x hx => hhist x (lt_nsym_of_mem_presentSyms hx)
  rw [Nat.zero_add] at seeded
  simp only [buildTree, ← presentSyms_eq hsym hhist]
  split_ifs with hnone hone
  · exact ⟨rfl, rfl, rfl, rfl, hnone ▸ seeded⟩
  · exact ⟨rfl, rfl, rfl, rfl, hone ▸ seeded⟩
  · obtain ⟨hfree, hnodes⟩ := seeded.after_mergeLoop (n := (presentSyms s).length) fun i hi => List.mem_range.1 hi
    exact ⟨rfl, congrArg (· - 1) hfree, hfree, rfl, hnodes⟩

/-- Settles O35: the command stores the tree it builds, and the trees of the two states agree. -/
theorem buildtreeIsAFunctionOfHist : Obligations.BuildtreeIsAFunctionOfHist := by
  intro s s' hsym hhist hw hw'
  obtain ⟨hkind, hroot, hnnodes, hnsyms, hnodes⟩ := sameTree_buildTree hsym hhist hw hw'
  exact ⟨_, _, rfl, rfl, hkind, hroot, hnnodes, hnsyms, hnodes.nodeAt_eq⟩

end Sys2Proof.Machine
end

section
/-! BUILDTABLE of a tree with at most one leaf (43_table.md R252, R253): the two cases in which nothing is walked. -/

namespace Sys2Proof.Machine

/-- BUILDTABLE always completes, and stores the table of the tree that stands (43_table.md R251). -/
theorem exec_buildtable (s : State) :
    exec .buildtable s = .next (endedOk { s with ct := buildTable s.tree }) := rfl

theorem buildTable_of_empty {t : Tree} (h : t.kind = .empty) : buildTable t = [] := by
  simp only [buildTable, h]

theorem buildTable_of_degen {t : Tree} (h : t.kind = .degen) :
    buildTable t = setCode [] (nodeAt t.node t.root).sym [true] := by
  simp only [buildTable, h]

/-- A table begun with one code holds it at its symbol and no other. -/
theorem get_setCode_nil (x y : Nat) (bits : List Bool) :
    Sparse.get [] (setCode [] x bits) y = if y = x then bits else [] := by
  have empty_wf : Sparse.wf ([] : List Bool) [] := by simp [Sparse.wf]
  split_ifs with hyx
  · rw [hyx]
    exact Sparse.get_set_same [] [] empty_wf x bits
  · exact Sparse.get_set_other [] [] x y bits hyx

/-- Settles O37: the one-leaf tree's table is begun with one code and left so; the empty tree's is left empty. -/
theorem buildtableOfAtMostOneSymbol : Obligations.BuildtableOfAtMostOneSymbol := by
  intro s
  refine ⟨fun hdegen => ⟨_, exec_buildtable s, fun x => ?_⟩, fun hempty => ⟨_, exec_buildtable s, fun x => ?_⟩⟩
  · rw [buildTable_of_degen hdegen]
    exact get_setCode_nil _ x [true]
  · rw [buildTable_of_empty hempty, Sparse.get_nil, List.length_nil]

end Sys2Proof.Machine
end

section
/-! COMPRESS and DECOMPRESS while HOST holds their stream (44_encode.md R277, 45_decode.md R310): both test the open
flag before their body, so the refusal leaves everything but the ended command's record. -/

namespace Sys2Proof.Machine

theorem exec_compress_of_open {s : State} (hopen : s.wr.wopen = true) :
    exec .compress s = .next (endedErr .stream 0 0x4#32 s) := if_pos hopen

theorem exec_decompress_of_open {s : State} (hopen : s.rd.ropen = true) :
    exec .decompress s = .next (endedErr .stream 0 0x5#32 s) := if_pos hopen

/-- Settles O30: each command's open stream decides its STREAM test. -/
theorem heldStreamsAreRefused : Obligations.HeldStreamsAreRefused :=
  fun _ => ⟨exec_compress_of_open, exec_decompress_of_open⟩

end Sys2Proof.Machine
end

section
/-! DECOMPRESS while no reader is open (45_decode.md R301), and its end on the empty tree, before a reader is opened
(R307). -/

namespace Sys2Proof.Machine

theorem exec_decompress_of_closed {s : State} (hclosed : s.rd.ropen = false) :
    exec .decompress s = finish (decompressBody 0x5 s) := if_neg (Bool.eq_false_iff.1 hclosed)

theorem decompressBody_of_empty (op : Nat) {s : State} (hempty : s.tree.kind = .empty) :
    decompressBody op s = .ok () { s with dstLen := 0, dstValid := true } := if_pos hempty

/-- Settles O45: the body's test of TREE_KIND comes before the reader and the walk. -/
theorem decompressOfTheEmptyTree : Obligations.DecompressOfTheEmptyTree := by
  intro s hclosed hempty
  rw [exec_decompress_of_closed hclosed, decompressBody_of_empty 0x5 hempty]
  exact finish_ok _

end Sys2Proof.Machine
end

section
/-! NOP and CLEAR (46_control.md R330, R331): neither can raise, so each completes; after CLEAR every index of HIST, CT
and the arena reads as its reset value. -/

namespace Sys2Proof.Machine

theorem exec_nop (s : State) : exec .nop s = .next (complete s) := finish_ok s

theorem exec_clear (s : State) : exec .clear s = .next (complete (clearInternal s)) := finish_ok _

@[simp] theorem clearInternal_histAt (s : State) (x : Nat) : (clearInternal s).histAt x = 0 := Sparse.get_nil 0 x

@[simp] theorem clearInternal_codeAt (s : State) (x : Nat) : (clearInternal s).codeAt x = [] := Sparse.get_nil [] x

@[simp] theorem clearInternal_nodeAt (s : State) (i : Nat) : (clearInternal s).nodeAt i = Node.zero :=
  Sparse.get_nil Node.zero i

/-- Settles O25: completing changes only the phase and DONE, so what CLEAR leaves in the three memories and in the
tree registers is `clearInternal`'s. -/
theorem nopAndClearComplete : Obligations.NopAndClearComplete := by
  intro s
  have registers : (complete (clearInternal s)).tree = Tree.reset := clearInternal_tree s
  refine ⟨rfl, rfl, exec_nop s, complete (clearInternal s), exec_clear s, clearInternal_histAt s,
    clearInternal_codeAt s, clearInternal_nodeAt s, ?_⟩
  rw [registers]
  exact ⟨rfl, rfl, rfl, rfl, rfl⟩

end Sys2Proof.Machine
end

section
/-! A HOST write while a command runs (70_reset_and_hazards.md R411): three kinds of register, and the offsets of each. -/

namespace Sys2Proof.Machine

theorem writeRunning_of_drops {r : Reg} (v : Word) (s : State) (hdrop : dropsWhileRunning r = true) :
    writeRunning r v s = { s with ovr := true } := by
  have hctrl : r ≠ .ctrl := by rintro rfl; cases hdrop
  have hstatus : r ≠ .status := by rintro rfl; cases hdrop
  simp only [writeRunning, if_neg hctrl, if_neg hstatus, if_pos hdrop]

theorem writeRunning_of_keeps {r : Reg} (v : Word) (s : State) (hctrl : r ≠ .ctrl) (hstatus : r ≠ .status)
    (hkeep : dropsWhileRunning r ≠ true) : writeRunning r v s = s := by
  simp only [writeRunning, if_neg hctrl, if_neg hstatus, if_neg hkeep]

/-- A write changes nothing where every register at its offset, if there is one, ignores it. -/
theorem busWrite_eq_self {off : Nat} (n : Nat) {v : Word} {s : State}
    (hinert : ∀ r, off = offsetOf r → writeReg r v s = s) : busWrite off n v s = s := by
  unfold busWrite
  split
  · next r hreg => exact hinert r (regOf_some hreg).2
  · rfl

/-- The offsets of CMD and of the RW registers other than CTRL. -/
def droppedOffsets : List Nat := (allRegs.filter dropsWhileRunning).map offsetOf

theorem mem_droppedOffsets {off : Nat} :
    off ∈ droppedOffsets ↔ ∃ r, dropsWhileRunning r = true ∧ offsetOf r = off := by
  simp only [droppedOffsets, List.mem_map, List.mem_filter, mem_allRegs, true_and]

theorem droppedOffsets_eq : droppedOffsets =
    [0x010, 0x020, 0x024, 0x028, 0x03C, 0x040, 0x044, 0x048, 0x070, 0x074, 0x078, 0x07C, 0x088] := by decide

/-- R411: a dropped write only sets OVR. -/
theorem busWrite_of_mem_droppedOffsets {s : State} {c : Word} (hrun : s.phase = .running c) {off : Nat} (v : Word)
    (hoff : off ∈ droppedOffsets) : busWrite off 4 v s = { s with ovr := true } := by
  obtain ⟨r, hdrop, rfl⟩ := mem_droppedOffsets.1 hoff
  rw [busWrite_offsetOf, writeReg_of_running r v hrun, writeRunning_of_drops v s hdrop]

/-- R411: a write to an RO register or to a reserved offset has no effect. -/
theorem busWrite_of_not_mem_droppedOffsets {s : State} {c : Word} (hrun : s.phase = .running c) {off : Nat} (n : Nat)
    (v : Word) (hoff : off ∉ droppedOffsets) (hctrl : off ≠ offsetOf .ctrl) (hstatus : off ≠ offsetOf .status) :
    busWrite off n v s = s := by
  refine busWrite_eq_self n fun r hr => ?_
  subst hr
  rw [writeReg_of_running r v hrun]
  exact writeRunning_of_keeps v s (ne_of_apply_ne offsetOf hctrl) (ne_of_apply_ne offsetOf hstatus)
    fun hdrop => hoff (mem_droppedOffsets.2 ⟨r, hdrop, rfl⟩)

theorem busWrite_ctrl_of_running {s : State} {c : Word} (hrun : s.phase = .running c) (v : Word) :
    busWrite (offsetOf .ctrl) 4 v s = { s with ie := v.getLsbD 0 } := by
  rw [busWrite_offsetOf, writeReg_of_running .ctrl v hrun]
  rfl

/-- Settles O12: an offset is one of a dropped register's, CTRL's or STATUS's, or a write there is inert; the STATUS
write is the one of every phase but reset initialisation (O13). -/
theorem writesWhileACommandRunsAreDropped : Obligations.WritesWhileACommandRunsAreDropped := by
  intro s c off v hrun
  have hready : s.phase ≠ .resetting := by simp [hrun]
  refine ⟨fun hoff => ?_, busWrite_ctrl_of_running hrun v, (statusWriteClearsDoneAndOvr s v).1 hready, fun hoff => ?_⟩
  · rw [← droppedOffsets_eq] at hoff
    exact busWrite_of_mem_droppedOffsets hrun v hoff
  · have hsplit : off ∉ droppedOffsets ++ [offsetOf .ctrl, offsetOf .status] := by
      rw [droppedOffsets_eq]
      exact hoff
    obtain ⟨hdropped, hrest⟩ := not_or.1 (mt List.mem_append.2 hsplit)
    obtain ⟨hctrl, hstatus⟩ := not_or.1 (mt List.mem_pair.2 hrest)
    exact busWrite_of_not_mem_droppedOffsets hrun 4 v hdropped hctrl hstatus

end Sys2Proof.Machine
end

section
/-! The command words: the round trip of encoder and decoder (30_encoding.md R132, R135), validity (R134), and the end
of an invalid word. -/

namespace Sys2Proof

/-- Settles O2: both directions are `decode_eq_ok_iff`. -/
theorem decodeAndEncodeAgree : Obligations.DecodeAndEncodeAgree :=
  ⟨fun i _ => (decode_eq_ok_iff _ i).2 rfl, fun c i h => ((decode_eq_ok_iff c i).1 h).symm⟩

/-- Every opcode up to 0xC is in the opcode map (30_encoding.md R132). -/
theorem decodeOp_of_le {op : Nat} (b : Bool) (hop : op ≤ 0xC) : ∃ i, decodeOp op b = .ok i := by
  interval_cases op <;> exact ⟨_, rfl⟩

theorem opcode_le (i : Instr) : opcode i ≤ 0xC := by
  cases i <;> exact Nat.le_of_ble_eq_true rfl

/-- The formula of 30_encoding.md R134 says which words are commands. -/
theorem decode_ok_iff_valid (c : Word) : (∃ i, decode c = .ok i) ↔ Valid c := by
  constructor
  · rintro ⟨i, h⟩
    obtain ⟨hmid, hhigh, hop, hb⟩ := (decode_eq_ok_iff_fields c i).1 h
    refine ⟨hop ▸ opcode_le i, hmid, hhigh, ?_⟩
    cases hbit : operandBit i with
    | false => exact .inl (hb.trans hbit)
    | true => exact .inr (hop.trans (opcode_of_operandBit hbit))
  · rintro ⟨hop, hmid, hhigh, hb⟩
    have hoperand : ¬ (fieldB c = true ∧ fieldOp c ≠ 0x8) := by
      rintro ⟨hset, hne⟩
      rcases hb with hb | hb
      · exact Bool.false_ne_true (hb.symm.trans hset)
      · exact hne hb
    obtain ⟨i, hi⟩ := decodeOp_of_le (fieldB c) hop
    exact ⟨i, by simpa only [decode, hmid, hhigh, ne_eq, not_true_eq_false, or_self, if_false, if_neg hoperand]⟩

/-- A field is 0 as a number exactly when it is the zero word. -/
theorem valid_iff (c : Word) :
    Valid c ↔
      ((c.extractLsb' 0 4).toNat ≤ 0xC ∧ c.extractLsb' 4 4 = 0 ∧ c.extractLsb' 9 23 = 0 ∧
        (c.getLsbD 8 = false ∨ (c.extractLsb' 0 4).toNat = 0x8)) := by
  simp only [Valid, fieldOp, fieldMid, fieldHigh, fieldB, BitVec.toNat_eq, BitVec.toNat_ofNat, Nat.zero_mod,
    BitVec.ofNat_eq_ofNat]

/-- Settles O1: each row is one evaluation of the decoder. -/
theorem tableWordsDecodeToTheirCommands : Obligations.TableWordsDecodeToTheirCommands := by
  unfold Obligations.TableWordsDecodeToTheirCommands
  decide

end Sys2Proof

namespace Sys2Proof.Machine

theorem decode_error_of_not_valid {c : Word} (hinvalid : ¬ Valid c) : ∃ e, decode c = .error e := by
  cases h : decode c with
  | ok i => exact absurd ((decode_ok_iff_valid c).1 ⟨i, h⟩) hinvalid
  | error e => exact ⟨e, rfl⟩

/-- Using up a schedule entry does not end a command. -/
@[simp] theorem popSched_phase (s : State) : (popSched s).phase = s.phase := by rw [popSched_frame]

theorem step_of_core {s : State} (hcore : nextAgent s = .core) : step s = coreStep (popSched s) := by
  simp only [step, hcore]

/-- CORE's turn while the word `c` runs. -/
theorem step_of_running {s : State} {c : Word} (hrun : s.phase = .running c) (hcore : nextAgent s = .core) :
    step s = runWord c (popSched s) := by
  have hphase : (popSched s).phase = .running c := (popSched_phase s).trans hrun
  simp only [step_of_core hcore, coreStep, hphase]

theorem runWord_of_ok {c : Word} {i : Instr} (hdec : decode c = .ok i) (s : State) : runWord c s = exec i s := by
  simp only [runWord, hdec]

theorem runWord_of_not_valid {c : Word} (hinvalid : ¬ Valid c) (s : State) :
    runWord c s = .next (raiseErr (badcmdErr c) s) := by
  obtain ⟨e, he⟩ := decode_error_of_not_valid hinvalid
  simp only [runWord, he]

/-- While BUSY = 0 a CMD write accepts its word, valid or not (30_encoding.md R131). -/
theorem busWrite_cmd_of_idle {s : State} (hidle : s.phase = .idle) (c : Word) :
    busWrite (offsetOf .cmd) 4 c s = accept c s := by
  rw [busWrite_offsetOf, writeReg_of_idle .cmd c hidle]
  rfl

/-- Settles O4: validity is the formula; an invalid word is accepted like any other, and CORE's turn raises BADCMD. -/
theorem invalidWordEndsWithBadcmd : Obligations.InvalidWordEndsWithBadcmd := by
  intro c
  refine ⟨(decode_ok_iff_valid c).trans (valid_iff c), fun hinvalid => ⟨fun s hidle => ?accepted, ?ending⟩⟩
  case accepted => exact congrArg State.phase (busWrite_cmd_of_idle hidle c)
  case ending =>
    intro s hrun hcore
    rw [step_of_running hrun hcore, runWord_of_not_valid hinvalid]
    rfl

end Sys2Proof.Machine
end

section
/-! A command as a run that `finish` ends (60_exceptions.md R352, R353), and the state each command may change
(30_encoding.md R137). -/

namespace Sys2Proof.Machine

/-- The run of a command, from the accepted state up to its normal end or its raise. -/
def body (i : Instr) (s : State) : Run Unit :=
  match i with
  | .nop => .ok () s
  | .analyze => countLoop 0x1 s.inCount 0 { s with hist := [] }
  | .buildtree => .ok () { s with tree := buildTree s }
  | .buildtable => .ok () { s with ct := buildTable s.tree }
  | .compress => if s.wr.wopen then .raised (streamErr 0x4) s else compressBody 0x4 s
  | .decompress => if s.rd.ropen then .raised (streamErr 0x5) s else decompressBody 0x5 s
  | .clear => .ok () (clearInternal s)
  | .wopen => if s.wr.wopen then .raised (streamErr 0x7) s else .ok () (wOpen s.outAddr s)
  | .wbit b => if s.wr.wopen then writeBit 0x8 b s else .raised (streamErr 0x8) s
  | .wclose => if s.wr.wopen then wClose 0x9 s else .raised (streamErr 0x9) s
  | .ropen => if s.rd.ropen then .raised (streamErr 0xA) s else .ok () (rOpen s.srcAddr s.srcBits.toNat s)
  | .rbit =>
    if s.rd.ropen then
      if s.rd.rpos ≥ s.rd.rlen then .raised eosErr s else deliverBit 0xB s
    else .raised (streamErr 0xB) s
  | .rclose => if s.rd.ropen then .ok () (closeReader s) else .raised (streamErr 0xC) s

theorem exec_eq_finish (i : Instr) (s : State) : exec i s = finish (body i s) := by
  cases i with
  | nop | analyze | buildtree | buildtable | clear => rfl
  | compress | decompress | wopen | wbit | wclose | ropen | rclose => exact (apply_ite finish _ _ _).symm
  | rbit =>
    rw [body, apply_ite finish, apply_ite finish]
    rfl

/-- `t` is `u` with a command ended in it: completed, with whatever error record. -/
def Ended (u t : State) : Prop :=
  ∃ (err : Bool) (code : ErrCode) (addr info : Word),
    t = { u with phase := .idle, done := true, err := err, errcode := code, errAddr := addr, errInfo := info }

theorem ended_of_finish {r : Run Unit} {t : State} (h : finish r = .next t) : Ended r.state t := by
  cases r with
  | ok a u => cases h; exact ⟨u.err, u.errcode, u.errAddr, u.errInfo, rfl⟩
  | raised e u => cases h; exact ⟨true, e.code, BitVec.ofNat 32 e.addr, e.info, rfl⟩

theorem ended_of_exec {i : Instr} {s t : State} (h : exec i s = .next t) : Ended (body i s).state t :=
  ended_of_finish (by rw [← exec_eq_finish, h])

/-! ### The state of its own that each command may change -/

/-- `u` differs from `s` in nothing but what the command `i` may write (30_encoding.md R137). -/
def OwnState (i : Instr) (s u : State) : Prop :=
  match i with
  | .nop => u = s
  | .analyze => ∃ h, u = { s with hist := h }
  | .buildtree => ∃ x, u = { s with tree := x }
  | .buildtable => ∃ c, u = { s with ct := c }
  | .wopen => ∃ w, u = { s with wr := w }
  | .compress | .wbit _ | .wclose => ∃ w m, u = { s with wr := w, mem := m }
  | .decompress => ∃ r m n v, u = { s with rd := r, mem := m, dstLen := n, dstValid := v }
  | .ropen | .rbit | .rclose => ∃ r, u = { s with rd := r }
  | .clear => u = clearInternal s

theorem finalEmit_frame (op pos : Nat) (s : State) : OnlyDecode s (finalEmit op pos s).state := by
  unfold finalEmit
  split
  · exact emit_frame op _ s
  · rfl

theorem decodeBody_frame (op : Nat) (s : State) :
    ∃ r m n v, (decodeBody op s).state = { s with rd := r, mem := m, dstLen := n, dstValid := v } := by
  have loop := decodeLoop_frame op s.srcBits.toNat s.tree.root (rOpen s.srcAddr s.srcBits.toNat s)
  unfold decodeBody
  cases run : decodeLoop op s.srcBits.toNat s.tree.root (rOpen s.srcAddr s.srcBits.toNat s) with
  | raised e u => rw [run] at loop; exact ⟨_, _, _, _, loop⟩
  | ok pos u =>
    rw [run] at loop
    have both := loop.trans (finalEmit_frame op pos u)
    simp only
    cases last : finalEmit op pos u with
    | raised e w => rw [last] at both; exact ⟨_, _, _, _, both⟩
    | ok _ w =>
      rw [last] at both
      have closed := congrArg closeDecoder both
      exact ⟨_, _, _, _, closed⟩

theorem decompressBody_frame (op : Nat) (s : State) :
    ∃ r m n v, (decompressBody op s).state = { s with rd := r, mem := m, dstLen := n, dstValid := v } := by
  simp only [decompressBody]
  split
  · exact ⟨_, _, _, _, rfl⟩
  · exact decodeBody_frame op { s with dstValid := false, dstLen := 0 }

theorem wClose_frame (op : Nat) (s : State) : ∃ w m, (wClose op s).state = { s with wr := w, mem := m } := by
  rcases wClose_cases op s with ⟨-, run⟩ | ⟨-, -, run⟩ | ⟨-, -, run⟩ <;> exact ⟨_, _, congrArg Run.state run⟩

theorem deliverBit_frame (op : Nat) (s : State) : ∃ r, (deliverBit op s).state = { s with rd := r } := by
  have frame := readBit_frame op s
  cases run : readBit op s with
  | ok b u =>
    rw [run] at frame
    rw [deliverBit_of_ok op run, Run.state_ok]
    exact ⟨{ u.rd with rdata := b }, congrArg (fun w => { w with rd := { u.rd with rdata := b } }) frame⟩
  | raised e u =>
    rw [run] at frame
    exact ⟨_, (congrArg Run.state (deliverBit_of_raised op run)).trans frame⟩

theorem ownState_body (i : Instr) (s : State) : OwnState i s (body i s).state := by
  cases i with
  | nop | clear => rfl
  | analyze => exact ⟨_, countLoop_frame 0x1 s.inCount 0 _⟩
  | buildtree | buildtable => exact ⟨_, rfl⟩
  | compress =>
    simp only [body]
    split
    · exact ⟨_, _, rfl⟩
    · exact ⟨_, _, compressBody_frame 0x4 s⟩
  | decompress =>
    simp only [body]
    split
    · exact ⟨_, _, _, _, rfl⟩
    · exact decompressBody_frame 0x5 s
  | wopen | ropen | rclose => simp only [body]; split <;> exact ⟨_, rfl⟩
  | wbit b =>
    simp only [body]
    split
    · exact ⟨_, _, writeBit_frame 0x8 b s⟩
    · exact ⟨_, _, rfl⟩
  | wclose =>
    simp only [body]
    split
    · exact wClose_frame 0x9 s
    · exact ⟨_, _, rfl⟩
  | rbit =>
    simp only [body]
    split
    · split
      · exact ⟨_, rfl⟩
      · exact deliverBit_frame 0xB s
    · exact ⟨_, rfl⟩

/-- Settles O51: what a command leaves in each field is read off its own state and its ending. -/
theorem eachCommandWritesOnlyItsOwnState : Obligations.EachCommandWritesOnlyItsOwnState := by
  intro i s t h
  have own := ownState_body i s
  obtain ⟨err, code, addr, info, rfl⟩ := ended_of_exec h
  clear h
  generalize (body i s).state = u at own
  cases i with
  | nop | clear => cases own; simp
  | analyze | buildtree | buildtable | wopen | ropen | rbit | rclose => obtain ⟨_, rfl⟩ := own; simp
  | compress | wclose => obtain ⟨_, _, rfl⟩ := own; simp
  | wbit b => obtain ⟨_, _, rfl⟩ := own; cases b <;> simp
  | decompress => obtain ⟨_, _, _, _, rfl⟩ := own; simp

end Sys2Proof.Machine
end

section
/-! What a step can do to HUFFCORE and the data memory: the parts of the state that are the model's own (HOST, the
counter of free values) stand apart, and an invariant that does not look at them is kept by every step when each of the
few real updates keeps it. Then the statements about one step. -/

namespace Sys2Proof.Machine

/-! ### Updates that only the model's own fields show -/

/-- `t` differs from `s` in nothing but HOST and the counter of free values. -/
def OnlyHost (s t : State) : Prop := ∃ n h, t = { s with freeCtr := n, host := h }

theorem OnlyHost.refl (s : State) : OnlyHost s s := ⟨s.freeCtr, s.host, rfl⟩

theorem OnlyHost.trans {s t u : State} (hst : OnlyHost s t) (htu : OnlyHost t u) : OnlyHost s u := by
  obtain ⟨_, _, rfl⟩ := hst
  obtain ⟨n, h, rfl⟩ := htu
  exact ⟨n, h, rfl⟩

theorem onlyHost_gotoStmt (n : Nat) (s : State) : OnlyHost s (gotoStmt n s) := ⟨s.freeCtr, _, rfl⟩

theorem onlyHost_nextStmt (s : State) : OnlyHost s (nextStmt s) := onlyHost_gotoStmt _ s

theorem onlyHost_hostSees (s : State) : OnlyHost s (hostSees s) := ⟨s.freeCtr, _, rfl⟩

theorem onlyHost_hostCheck (v : Word) (s : State) : OnlyHost s (hostCheck v s) := ⟨s.freeCtr, _, rfl⟩

theorem onlyHost_popSched (s : State) : OnlyHost s (popSched s) := ⟨s.freeCtr, _, popSched_frame s⟩

theorem onlyHost_hostBranch (mask : Word) (target : Nat) (s : State) : OnlyHost s (hostBranch mask target s) := by
  unfold hostBranch
  split
  · exact onlyHost_gotoStmt target s
  · exact onlyHost_nextStmt s

theorem onlyHost_busRead (off n : Nat) (s : State) : OnlyHost s (busRead off n s).2 := by
  rcases busRead_frame off n s with e | e | ⟨-, e⟩
  · rw [e]; exact OnlyHost.refl s
  · exact ⟨s.freeCtr + 1, s.host, e⟩
  · rw [e]; exact onlyHost_hostSees s

theorem onlyHost_hostRead (off n : Nat) (s : State) : OnlyHost s (hostRead off n s) :=
  (onlyHost_busRead off n s).trans ⟨(busRead off n s).2.freeCtr, _, rfl⟩

theorem busWrite_cases (off n : Nat) (v : Word) (s : State) :
    busWrite off n v s = s ∨ ∃ r, busWrite off n v s = writeReg r v s := by
  unfold busWrite
  split
  · next r _ => exact .inr ⟨r, rfl⟩
  · exact .inl rfl

theorem busy_of_running {s : State} {c : Word} (hrun : s.phase = .running c) : s.busy = true := by
  rw [State.busy, hrun]
  rfl

/-! ### Invariants of HOST's turn and of a step -/

section
variable {P : State → Prop}

/-- HOST's turn is a register write, a write of a byte that exists, the assertion of reset, or nothing but its own. -/
theorem hostStep_keeps (hsame : ∀ s t, OnlyHost s t → P s → P t) (hwrite : ∀ r v s, P s → P (writeReg r v s))
    (hmem : ∀ a v s, a < s.cfg.memSize → P s → P { s with mem := s.mem.write a v })
    (hreset : ∀ s, P s → P (assertReset s)) {s t : State} (hs : P s) (h : hostStep s = .next t) : P t := by
  rcases hostStep_cases h with ⟨-, rfl⟩ | ⟨st, -, hrun⟩
  · exact hs
  have next {u : State} (hu : P u) : P (nextStmt u) := hsame _ _ (onlyHost_nextStmt u) hu
  have read (off n : Nat) : P (hostRead off n s) := hsame _ _ (onlyHost_hostRead off n s) hs
  rcases runStmt_cases hrun with ⟨off, n, v, -, rfl⟩ | ⟨off, n, -, rfl⟩ | ⟨off, v, -, rfl⟩ |
    ⟨off, mask, target, -, rfl⟩ | ⟨a, v, -, hrange, -, rfl⟩ | ⟨a, -, -, -, rfl⟩ | ⟨-, -, rfl⟩ | ⟨-, -, rfl⟩ |
    ⟨-, rfl⟩
  case inl =>
    rcases busWrite_cases off n v s with e | ⟨r, e⟩
    · rw [e]; exact next hs
    · rw [e]; exact next (hwrite r v s hs)
  · exact next (read off n)
  · exact next (hsame _ _ (onlyHost_hostCheck v _) (read off 4))
  · exact hsame _ _ (onlyHost_hostBranch mask target _) (read off 4)
  · exact next (hmem a v s (Nat.lt_of_succ_le (of_decide_eq_true hrange)) hs)
  · exact next (hsame _ _ ⟨s.freeCtr, _, rfl⟩ hs)
  · exact next (hsame _ _ (onlyHost_hostSees s) hs)
  · exact hs
  · exact next (hreset s hs)

/-- An invariant is kept by every step when HOST's updates, every command, the end of an invalid word and both ends of
reset keep it. -/
theorem step_keeps (hsame : ∀ s t, OnlyHost s t → P s → P t) (hwrite : ∀ r v s, P s → P (writeReg r v s))
    (hmem : ∀ a v s, a < s.cfg.memSize → P s → P { s with mem := s.mem.write a v })
    (hreset : ∀ s, P s → P (assertReset s)) (hbadcmd : ∀ c s, P s → P (raiseErr (badcmdErr c) s))
    (hfinish : ∀ s, P s → P (finishReset s))
    (hexec : ∀ i s t, s.busy = true → P s → exec i s = .next t → P t) {s t : State} (hs : P s)
    (h : step s = .next t) : P t := by
  have hpop : P (popSched s) := hsame _ _ (onlyHost_popSched s) hs
  rcases step_cases h with ⟨-, hhost⟩ | ⟨-, hcore⟩
  · exact hostStep_keeps hsame hwrite hmem hreset hpop hhost
  rcases coreStep_cases hcore with ⟨c, i, hrun, -, hexe⟩ | ⟨c, e, -, -, rfl⟩ | ⟨-, rfl⟩ | ⟨-, rfl⟩
  · exact hexec i _ t (busy_of_running hrun) hpop hexe
  · exact hbadcmd c _ hpop
  · exact hfinish _ hpop
  · exact hpop

end

/-! ### Acceptance and CORE's turn -/

/-- Settles O5: acceptance is the whole effect of the write. -/
theorem cmdWriteWhileIdleIsAccepted : Obligations.CmdWriteWhileIdleIsAccepted :=
  fun _ c hidle => busWrite_cmd_of_idle hidle c

theorem nextAgent_of_busy {s : State} (hbusy : s.phase ≠ .idle) : nextAgent s = s.host.sched.headD .core := by
  cases hp : s.phase with
  | idle => exact absurd hp hbusy
  | running c => simp only [nextAgent, hp]
  | resetting => simp only [nextAgent, hp]

/-- Settles O6: CORE's turn is `runWord`; the state `withFetchWord` leaves has CORE to move and no schedule entry to use
up. -/
theorem stepRunsTheAcceptedCommand : Obligations.StepRunsTheAcceptedCommand := by
  refine ⟨fun s c i hrun hdec hcore => ?turn, fun s i => ?fetched, fun s hbusy hsched => ?order⟩
  case turn => rw [step_of_running hrun hcore, runWord_of_ok hdec]
  case fetched =>
    have word : BitVec.ofNat 32 ((encode i).toNat % 2 ^ 32) = encode i := by
      rw [Nat.mod_eq_of_lt (encode i).isLt, BitVec.ofNat_toNat, BitVec.setWidth_eq]
    rw [State.withFetchWord, word]
    have turn : step (withCommand (encode i) s) = runWord (encode i) (withCommand (encode i) s) := rfl
    rw [turn, runWord_of_ok ((decode_eq_ok_iff _ i).2 rfl)]
  case order => rw [nextAgent_of_busy hbusy, hsched, List.headD_nil]

theorem runWord_next (c : Word) (s : State) : ∃ t, runWord c s = .next t ∧ t.phase = .idle ∧ t.done = true := by
  unfold runWord
  split
  · next i _ => exact exec_next i s
  · exact ⟨_, rfl, rfl, rfl⟩

theorem irq_of_done {s : State} (hdone : s.done = true) : s.irq = s.ie := by
  rw [State.irq, hdone, Bool.and_true]

/-- Settles O50: a command, and the end of an invalid word, leave CORE idle with DONE set. -/
theorem everyAcceptedWordCompletes : Obligations.EveryAcceptedWordCompletes := by
  intro c s hrun hcore
  obtain ⟨t, ht, hidle, hdone⟩ := runWord_next c (popSched s)
  refine ⟨t, (step_of_running hrun hcore).trans ht, hidle, hdone, irq_of_done hdone, fun c' => ?_⟩
  exact congrArg State.phase (busWrite_cmd_of_idle hidle c')

theorem runWord_ie {c : Word} {s t : State} (h : runWord c s = .next t) : t.ie = s.ie := by
  unfold runWord at h
  split at h
  · next i _ =>
    have hie := congrArg State.ie (eachCommandWritesOnlyItsOwnState i s t h).1
    exact hie
  · cases h
    rfl

/-- Settles O20: DONE is 1 after every command and 0 after acceptance and reset; a STATUS or CTRL write changes one
factor of irq. -/
theorem irqFollowsEnableAndDone : Obligations.IrqFollowsEnableAndDone := by
  refine ⟨fun c s t h => ?command, fun s v hidle => ?writes, fun s => ⟨rfl, rfl⟩⟩
  case command =>
    obtain ⟨u, hu, -, hdone⟩ := runWord_next c s
    cases h.symm.trans hu
    rw [irq_of_done hdone, runWord_ie h]
  case writes =>
    have hstatus : busWrite 0x014 4 v s = writeStatus v s :=
      (busWrite_offsetOf .status v s).trans (writeReg_of_idle .status v hidle)
    have hctrl : busWrite 0x00C 4 v s = writeCtrl v s :=
      (busWrite_offsetOf .ctrl v s).trans (writeReg_of_idle .ctrl v hidle)
    have hcmd : busWrite 0x010 4 v s = accept v s := busWrite_cmd_of_idle hidle v
    rw [hstatus, hctrl, hcmd]
    refine ⟨fun hclear => ?_, fun hdisable => ?_, fun henable => ?_, ?_⟩
    · simp only [State.irq, writeStatus, hclear, Bool.not_true, Bool.and_false]
    · simp only [State.irq, writeCtrl, hdisable, Bool.false_and]
    · simp only [State.irq, writeCtrl, henable, Bool.true_and]
    · exact Bool.and_false s.ie

/-! ### HOST's turn while CORE is idle -/

theorem step_of_idle {s : State} (hidle : s.phase = .idle) : step s = hostStep s := by
  simp only [step, nextAgent, popSched, hidle]

theorem busRead_pc (off n : Nat) (s : State) : (busRead off n s).2.host.pc = s.host.pc := by
  rcases busRead_frame off n s with e | e | ⟨-, e⟩
  · rw [e]
  · rw [e]
  · rw [e]; rfl

theorem writeReg_pc (r : Reg) (v : Word) (s : State) : (writeReg r v s).host.pc = s.host.pc := by
  cases hp : s.phase with
  | idle =>
    rw [writeReg_of_idle r v hp]
    cases r <;> rfl
  | running c =>
    rw [writeReg_of_running r v hp]
    unfold writeRunning
    split_ifs <;> rfl
  | resetting => rw [writeReg_of_resetting r v hp]

theorem busWrite_pc (off n : Nat) (v : Word) (s : State) : (busWrite off n v s).host.pc = s.host.pc := by
  rcases busWrite_cases off n v s with e | ⟨r, e⟩
  · rw [e]
  · rw [e, writeReg_pc]

/-- Settles O7: the statement at HOST's index runs; a bus access leaves that index alone, so that the statement alone
moves it. -/
theorem idleStepRunsTheNextHostStatement : Obligations.IdleStepRunsTheNextHostStatement := by
  intro s hidle
  have turn : ∀ st, s.host.prog[s.host.pc]? = some st → step s = runStmt st s := fun st hst => by
    simp only [step_of_idle hidle, hostStep, hst]
  refine ⟨fun hend => ?_, turn, fun off n v hst => ⟨_, turn _ hst, rfl, ?wr⟩,
    fun off n hst => ⟨_, turn _ hst, rfl, ?rd⟩,
    fun off mask target hst => ⟨_, turn _ hst, ?jnz⟩⟩
  · simp only [step_of_idle hidle, hostStep, hend]
  case wr => rw [← busWrite_pc off n v s]; rfl
  case rd => exact congrArg (· + 1) (busRead_pc off n s)
  case jnz =>
    unfold hostBranch
    split
    · next hset => exact (if_pos hset).symm
    · next hclear => exact (congrArg (· + 1) (busRead_pc off 4 s)).trans (if_neg hclear).symm

/-! ### Reset initialisation -/

theorem phase_of_hostStep_of_resetting {s t : State} (hreset : s.phase = .resetting) (h : hostStep s = .next t) :
    t.phase = .resetting := by
  refine hostStep_keeps (P := fun s => s.phase = .resetting) ?_ ?_ ?_ ?_ hreset h
  · rintro s _ ⟨_, _, rfl⟩ hs
    exact hs
  · intro r v s hs
    rw [writeReg_of_resetting r v hs, hs]
  · exact fun a v s _ hs => hs
  · exact fun s _ => rfl

/-- Settles O23: no statement of HOST ends reset initialisation; CORE's turn does. -/
theorem resetInitialisationEndsInTheResetState : Obligations.ResetInitialisationEndsInTheResetState := by
  refine ⟨fun s => rfl, fun s hreset => ?_⟩
  have hphase : (popSched s).phase = .resetting := (popSched_phase s).trans hreset
  refine ⟨by rw [State.busy, hreset]; rfl, fun t hhost h => ?host, fun hcore => ?core⟩
  case host =>
    simp only [step, hhost] at h
    exact phase_of_hostStep_of_resetting hphase h
  case core =>
    have turn : step s = .next (finishReset (popSched s)) := by
      simp only [step_of_core hcore, coreStep, hphase]
    refine ⟨turn, ?_, ?_, rfl, rfl, rfl⟩
    · rw [popSched_frame]
    · rw [popSched_frame]

end Sys2Proof.Machine
end

section
/-! The register block (10_state.md sections 2.1 to 2.4): which access reaches a register, what a read returns in each
phase, and the bits of the registers that pack several fields. -/

namespace Sys2Proof.Machine

/-! ### Which accesses reach a register -/

theorem regOf_eq_none {off n : Nat} (h : n ≠ 4 ∨ off % 4 ≠ 0 ∨ 0x0A0 ≤ off) : regOf off n = none := by
  cases hreg : regOf off n with
  | none => rfl
  | some r =>
    obtain ⟨hn, rfl⟩ := regOf_some hreg
    have bound := offsetOf_bound r
    omega

theorem busWrite_of_none {off n : Nat} (h : regOf off n = none) (v : Word) (s : State) : busWrite off n v s = s := by
  simp only [busWrite, h]

theorem busRead_of_none {off n : Nat} (h : regOf off n = none) (s : State) : busRead off n s = (0, s) := by
  simp only [busRead, h]

/-- The read-only registers of 10_state.md R32: those that are neither RW nor STATUS. -/
def isReadOnly (r : Reg) : Bool := !dropsWhileRunning r && r != .ctrl && r != .status

/-- R33: a write to a read-only register has no effect in any phase. -/
theorem writeReg_of_readOnly {r : Reg} (hro : isReadOnly r = true) (v : Word) (s : State) : writeReg r v s = s := by
  have hkeep : dropsWhileRunning r ≠ true ∧ r ≠ .ctrl ∧ r ≠ .status := by simpa [isReadOnly, and_assoc] using hro
  obtain ⟨hdrop, hctrl, hstatus⟩ := hkeep
  cases hp : s.phase with
  | idle =>
    rw [writeReg_of_idle r v hp]
    cases r with
    | ctrl | cmd | status | inAddr | inLen | outAddr | srcAddr | srcBitsLo | srcBitsHi | dstAddr => cases hro
    | hsel | hdata | csel | cwsel | nsel => cases hro
    | id | config | memsz | errAddr | errInfo | nsyms | nnodes | root | wstate | rstate | rposLo | rposHi => rfl
    | outBitsLo | outBitsHi | outBytesLo | outBytesHi | dstLenLo | dstLenHi | clen | cword => rfl
    | ninfo | nleft | nright | nwgtLo | nwgtHi => rfl
  | running c => rw [writeReg_of_running r v hp, writeRunning_of_keeps v s hctrl hstatus hdrop]
  | resetting => exact writeReg_of_resetting r v hp

/-- The offsets of the read-only registers. -/
def readOnlyOffsets : List Nat := (allRegs.filter isReadOnly).map offsetOf

theorem readOnlyOffsets_eq : readOnlyOffsets =
    [0x000, 0x004, 0x008, 0x018, 0x01C, 0x02C, 0x030, 0x034, 0x038, 0x04C, 0x050, 0x054, 0x058, 0x05C, 0x060,
     0x064, 0x068, 0x06C, 0x080, 0x084, 0x08C, 0x090, 0x094, 0x098, 0x09C] := by decide

/-- Settles O8: `regOf` finds a register at its own offset only, and the offsets are multiples of 4 below 0x0A0. -/
theorem onlyAlignedWordAccessesReachRegisters : Obligations.OnlyAlignedWordAccessesReachRegisters := by
  refine ⟨fun off n r => ⟨regOf_some, ?reach⟩, fun s off n v hmiss => ?inert, fun s off v hoff => ?readOnly⟩
  case reach =>
    rintro ⟨rfl, rfl⟩
    exact regOf_offsetOf r
  case inert => exact ⟨busWrite_of_none (regOf_eq_none hmiss) v s, busRead_of_none (regOf_eq_none hmiss) s⟩
  case readOnly =>
    rw [← readOnlyOffsets_eq, readOnlyOffsets, List.mem_map] at hoff
    obtain ⟨r, hr, rfl⟩ := hoff
    rw [busWrite_offsetOf, writeReg_of_readOnly (List.of_mem_filter hr)]

/-! ### What a read returns in each phase -/

/-- A register R410 does not leave open reads its value outside reset initialisation, and the read changes nothing. -/
theorem readReg_of_known {r : Reg} {s : State} (hknown : knownWhileRunning r = true) (hphase : s.phase ≠ .resetting) :
    readReg r s = (regValue r s, s) := by
  have hstatus : r ≠ .status := by rintro rfl; cases hknown
  cases hp : s.phase with
  | idle => simp [readReg, hp, hstatus, hknown]
  | running c => simp [readReg, hp, hstatus, hknown]
  | resetting => exact absurd hp hphase

/-- Once HOST has seen the last command end every register but STATUS reads its value (20_memory.md R113). -/
theorem readReg_of_seen {r : Reg} {s : State} (hstatus : r ≠ .status) (hidle : s.phase = .idle)
    (hseen : s.host.unseen = false) : readReg r s = (regValue r s, s) := by
  simp [readReg, hidle, hstatus, hseen]

theorem readReg_status_of_idle {s : State} (hidle : s.phase = .idle) :
    readReg .status s = (s.statusWord, hostSees s) := by
  simp only [readReg, hidle, if_true]

theorem readReg_status_of_running {s : State} {c : Word} (hrun : s.phase = .running c) :
    readReg .status s = (statusWhileRunning (takeFree s).1 s, (takeFree s).2) := by
  simp only [readReg, hrun, if_true]

theorem readReg_status_of_resetting {s : State} (hreset : s.phase = .resetting) :
    readReg .status s = ((takeFree s).1 ||| 1#32, (takeFree s).2) := by
  simp only [readReg, hreset, if_true]

theorem busRead_of_known (r : Reg) {s : State} (hknown : knownWhileRunning r = true) (hphase : s.phase ≠ .resetting) :
    busRead (offsetOf r) 4 s = (regValue r s, s) := by
  rw [busRead_offsetOf, readReg_of_known hknown hphase]

theorem busRead_of_seen (r : Reg) {s : State} (hidle : s.phase = .idle) (hseen : s.host.unseen = false)
    (hstatus : r ≠ .status) : busRead (offsetOf r) 4 s = (regValue r s, s) := by
  rw [busRead_offsetOf, readReg_of_seen hstatus hidle hseen]

/-- While CORE is busy a read changes at most the counter of free values. -/
theorem busRead_state_of_busy {s : State} (hbusy : s.phase ≠ .idle) (off n : Nat) :
    (busRead off n s).2 = s ∨ (busRead off n s).2 = { s with freeCtr := s.freeCtr + 1 } := by
  rcases busRead_frame off n s with e | e | ⟨hidle, -⟩
  · exact .inl e
  · exact .inr e
  · exact absurd hidle hbusy

/-! ### Words from numbers -/

theorem getLsbD_ofNat_eq {n k : Nat} {b : Bool} (hk : k < 32) (h : n / 2 ^ k % 2 = b.toNat) :
    (BitVec.ofNat 32 n).getLsbD k = b := by
  rw [BitVec.getLsbD_ofNat, decide_eq_true hk, Bool.true_and, Nat.testBit_eq_decide_div_mod_eq, h]
  cases b <;> rfl

theorem toNat_extract_ofNat (n start len : Nat) :
    ((BitVec.ofNat 32 n).extractLsb' start len).toNat = n % 2 ^ 32 / 2 ^ start % 2 ^ len := by
  rw [BitVec.extractLsb'_toNat, BitVec.toNat_ofNat, Nat.shiftRight_eq_div_pow]

theorem flagWord_eq (b : Bool) : BitVec.ofNat 32 b.toNat = if b then 1#32 else 0#32 := by cases b <;> rfl

theorem lowWord_toNat (x : BitVec 64) : lowWord x.toNat = x.extractLsb' 0 32 := by
  apply BitVec.eq_of_toNat_eq
  rw [lowWord, BitVec.toNat_ofNat, BitVec.extractLsb'_toNat, Nat.shiftRight_zero]

theorem highWord_toNat (x : BitVec 64) : highWord x.toNat = x.extractLsb' 32 32 := by
  apply BitVec.eq_of_toNat_eq
  rw [highWord, BitVec.toNat_ofNat, BitVec.extractLsb'_toNat, Nat.shiftRight_eq_div_pow]

/-! ### The constants -/

theorem configWord_of_w8 {c : Config} (h : c.symW = .w8) : configWord c = 0x01282008#32 := by
  simp only [configWord, Config.symBits, Config.wgtBits, h]
  rfl

theorem configWord_of_w16 {c : Config} (h : c.symW = .w16) : configWord c = 0x01302010#32 := by
  simp only [configWord, Config.symBits, Config.wgtBits, h]
  rfl

/-- Settles O9: the three constants are known in every phase but reset initialisation; CONFIG is one of two words. -/
theorem identificationRegistersReadTheirConstants : Obligations.IdentificationRegistersReadTheirConstants := by
  intro s hphase
  refine ⟨busRead_of_known .id rfl hphase, ⟨configWord s.cfg, busRead_of_known .config rfl hphase, ?config⟩,
    s.cfg.memTop, busRead_of_known .memsz rfl hphase, rfl⟩
  case config =>
    cases hsym : s.cfg.symW with
    | w8 =>
      rw [configWord_of_w8 hsym, Config.symBits, Config.wgtBits, Config.symBits, hsym]
      decide
    | w16 =>
      rw [configWord_of_w16 hsym, Config.symBits, Config.wgtBits, Config.symBits, hsym]
      decide

/-! ### STATUS -/

theorem ErrCode.toNat_lt (e : ErrCode) : e.toNat < 16 := by cases e <;> decide

/-- The fields of the STATUS layout whose bits 14:8 are `high` (10_state.md section 2.1). -/
theorem statusLayout_fields (s : State) {high : Nat} (hhigh : high < 128) {w : Word}
    (hw : w = BitVec.ofNat 32 (s.statusLow + 256 * high)) :
    w.getLsbD 0 = s.busy ∧ w.getLsbD 1 = s.done ∧ w.getLsbD 2 = s.err ∧ w.getLsbD 3 = s.ovr ∧
    (w.extractLsb' 4 4).toNat = s.errcode.toNat ∧ w.extractLsb' 15 17 = 0 := by
  have hbusy := Bool.toNat_lt s.busy
  have hdone := Bool.toNat_lt s.done
  have herr := Bool.toNat_lt s.err
  have hovr := Bool.toNat_lt s.ovr
  have hcode := ErrCode.toNat_lt s.errcode
  subst hw
  refine ⟨getLsbD_ofNat_eq (by omega) ?_, getLsbD_ofNat_eq (by omega) ?_, getLsbD_ofNat_eq (by omega) ?_,
    getLsbD_ofNat_eq (by omega) ?_, ?_, BitVec.eq_of_toNat_eq ?_⟩
  all_goals simp only [toNat_extract_ofNat, State.statusLow, BitVec.ofNat_eq_ofNat, BitVec.toNat_ofNat]
  all_goals omega

theorem statusLow_lt (s : State) : s.statusLow < 256 := by
  have hbusy := Bool.toNat_lt s.busy
  have hdone := Bool.toNat_lt s.done
  have herr := Bool.toNat_lt s.err
  have hovr := Bool.toNat_lt s.ovr
  have hcode := ErrCode.toNat_lt s.errcode
  simp only [State.statusLow]
  omega

theorem TreeKind.toNat_lt (k : TreeKind) : k.toNat < 3 := by cases k <;> decide

theorem statusHigh_lt (s : State) : s.statusHigh < 128 := by
  have hkind := TreeKind.toNat_lt s.tree.kind
  have hout := Bool.toNat_lt s.wr.outValid
  have hdst := Bool.toNat_lt s.dstValid
  have hwopen := Bool.toNat_lt s.wr.wopen
  have hropen := Bool.toNat_lt s.rd.ropen
  have hmore := Bool.toNat_lt s.hasMore
  simp only [State.statusHigh]
  omega

/-- Bits 14:8 of STATUS while idle. -/
theorem statusWord_highFields (s : State) :
    (s.statusWord.extractLsb' 8 2).toNat = s.tree.kind.toNat ∧
    s.statusWord.getLsbD 10 = s.wr.outValid ∧ s.statusWord.getLsbD 11 = s.dstValid ∧
    s.statusWord.getLsbD 12 = s.wr.wopen ∧ s.statusWord.getLsbD 13 = s.rd.ropen ∧
    s.statusWord.getLsbD 14 = s.hasMore := by
  have hlow := statusLow_lt s
  have hkind := TreeKind.toNat_lt s.tree.kind
  have hout := Bool.toNat_lt s.wr.outValid
  have hdst := Bool.toNat_lt s.dstValid
  have hwopen := Bool.toNat_lt s.wr.wopen
  have hropen := Bool.toNat_lt s.rd.ropen
  have hmore := Bool.toNat_lt s.hasMore
  unfold State.statusWord
  refine ⟨?_, getLsbD_ofNat_eq (by omega) ?_, getLsbD_ofNat_eq (by omega) ?_, getLsbD_ofNat_eq (by omega) ?_,
    getLsbD_ofNat_eq (by omega) ?_, getLsbD_ofNat_eq (by omega) ?_⟩
  all_goals simp only [toNat_extract_ofNat, State.statusHigh]
  all_goals omega

/-- WSTATE holds WACC below WCNT while WCNT fits its four bits (10_state.md R54). -/
theorem wstate_fields {s : State} (hcnt : s.wr.wcnt ≤ 8) :
    (regValue .wstate s).extractLsb' 0 8 = s.wr.wacc ∧ ((regValue .wstate s).extractLsb' 8 4).toNat = s.wr.wcnt ∧
    (regValue .wstate s).extractLsb' 12 20 = 0 := by
  have hacc := s.wr.wacc.isLt
  refine ⟨BitVec.eq_of_toNat_eq ?_, ?_, BitVec.eq_of_toNat_eq ?_⟩
  all_goals simp only [regValue, toNat_extract_ofNat, BitVec.ofNat_eq_ofNat, BitVec.toNat_ofNat]
  all_goals omega

/-- Settles O10: STATUS by its layout; every other register reads its value once HOST has seen the end. -/
theorem statusShowsTheStateWhileIdle : Obligations.StatusShowsTheStateWhileIdle := by
  intro s hidle
  refine ⟨⟨s.statusWord, congrArg Prod.fst ((busRead_offsetOf .status s).trans (readReg_status_of_idle hidle)), ?_⟩,
    fun hseen => ?registers⟩
  · obtain ⟨hbusy, hdone, herr, hovr, hcode, hreserved⟩ := statusLayout_fields s (statusHigh_lt s) rfl
    obtain ⟨hkind, hout, hdst, hwopen, hropen, hmore⟩ := statusWord_highFields s
    refine ⟨hbusy.trans (by rw [State.busy, hidle]; rfl), hdone, herr, hovr, hcode.trans ?code, hkind.trans ?kind,
      fun h3 => ?noThree, hout, hdst, hwopen, hropen, hmore, hreserved⟩
    case code => cases s.errcode <;> rfl
    case kind => cases s.tree.kind <;> rfl
    case noThree =>
      rw [h3] at hkind
      have bound := TreeKind.toNat_lt s.tree.kind
      rw [← hkind] at bound
      exact absurd bound (by decide)
  case registers =>
    have read (r : Reg) (hstatus : r ≠ .status) := busRead_of_seen r hidle hseen hstatus
    refine ⟨read .errAddr (by decide), read .errInfo (by decide), read .outBitsLo (by decide),
      read .outBitsHi (by decide), read .outBytesLo (by decide), read .outBytesHi (by decide),
      read .dstLenLo (by decide), read .dstLenHi (by decide), read .nsyms (by decide), read .nnodes (by decide),
      read .root (by decide), fun hcnt => ⟨_, read .wstate (by decide), wstate_fields hcnt⟩, ?_,
      read .rposLo (by decide), read .rposHi (by decide)⟩
    rw [← flagWord_eq]
    exact read .rstate (by decide)

/-! ### Reads of the registers whose value is always known -/

/-- CTRL, the configuration registers and the selectors read their values in every phase but reset initialisation. -/
theorem busRead_configuration {s : State} (hphase : s.phase ≠ .resetting) :
    busRead 0x00C 4 s = ((if s.ie then 1#32 else 0#32), s) ∧
    busRead 0x020 4 s = (s.inAddr, s) ∧ busRead 0x024 4 s = (s.inLen, s) ∧ busRead 0x028 4 s = (s.outAddr, s) ∧
    busRead 0x03C 4 s = (s.srcAddr, s) ∧ busRead 0x040 4 s = (s.srcBits.extractLsb' 0 32, s) ∧
    busRead 0x044 4 s = (s.srcBits.extractLsb' 32 32, s) ∧ busRead 0x048 4 s = (s.dstAddr, s) ∧
    busRead 0x070 4 s = (s.hsel.setWidth 32, s) ∧ busRead 0x078 4 s = (s.csel.setWidth 32, s) ∧
    busRead 0x07C 4 s = (s.cwsel.setWidth 32, s) ∧ busRead 0x088 4 s = (s.nsel.setWidth 32, s) := by
  have read (r : Reg) (hknown : knownWhileRunning r = true) := busRead_of_known r hknown hphase
  rw [← flagWord_eq, ← lowWord_toNat, ← highWord_toNat, ← BitVec.ofNat_toNat, ← BitVec.ofNat_toNat,
    ← BitVec.ofNat_toNat, ← BitVec.ofNat_toNat]
  exact ⟨read .ctrl rfl, read .inAddr rfl, read .inLen rfl, read .outAddr rfl, read .srcAddr rfl, read .srcBitsLo rfl,
    read .srcBitsHi rfl, read .dstAddr rfl, read .hsel rfl, read .csel rfl, read .cwsel rfl, read .nsel rfl⟩

/-- Settles O11: bits 7:0 of STATUS are the state's whatever the free value is, and RecordInv says DONE and ERR are 0.
-/
theorem readsWhileACommandRuns : Obligations.ReadsWhileACommandRuns := by
  rintro s c hrun ⟨hcode, -, hflags⟩
  have hbusy : s.busy = true := busy_of_running hrun
  obtain ⟨hdone0, herr0⟩ := hflags hbusy
  obtain ⟨hctrl, hin, hlen, hout, hsrc, hlo, hhi, hdst, hhsel, hcsel, hcwsel, hnsel⟩ :=
    busRead_configuration (s := s) (by simp [hrun])
  refine ⟨⟨_, congrArg Prod.fst ((busRead_offsetOf .status s).trans (readReg_status_of_running hrun)), ?status⟩,
    hctrl, hin, hlen, hout, hsrc, hlo, hhi, hdst, hhsel, hcsel, hcwsel, hnsel,
    busRead_state_of_busy (by simp [hrun])⟩
  case status =>
    obtain ⟨busyBit, doneBit, errBit, ovrBit, codeBits, reserved⟩ :=
      statusLayout_fields s (Nat.mod_lt (takeFree s).1.toNat (by omega : 0 < 128)) rfl
    refine ⟨busyBit.trans hbusy, doneBit.trans hdone0, errBit.trans herr0, ovrBit, ?_, reserved⟩
    exact BitVec.eq_of_toNat_eq (codeBits.trans (by rw [hcode.1 herr0]; rfl))

/-- Settles O14: no register takes a write, and the BUSY bit is or-ed into whatever STATUS reads. -/
theorem resetInitialisationIgnoresEveryWrite : Obligations.ResetInitialisationIgnoresEveryWrite := by
  intro s hreset
  refine ⟨fun off n v => ?_, ?_, busRead_state_of_busy (by simp [hreset])⟩
  · rcases busWrite_cases off n v s with e | ⟨r, e⟩
    · exact e
    · exact e.trans (writeReg_of_resetting r v hreset)
  · have read : busRead 0x014 4 s = _ := (busRead_offsetOf .status s).trans (readReg_status_of_resetting hreset)
    rw [read, BitVec.getLsbD_or]
    exact Bool.or_true _

end Sys2Proof.Machine
end

section
/-! Bits as a number, the first one the most significant: how CWORD shows a code (10_state.md R57) and how the writer
fills a byte (40_stream.md R160, R164). -/

namespace Sys2Proof.Machine

/-- The number whose binary digits are `bs`, the most significant first. -/
def bitsToNat (bs : List Bool) : Nat := bs.foldl (fun acc b => 2 * acc + b.toNat) 0

@[simp] theorem bitsToNat_nil : bitsToNat [] = 0 := rfl

theorem bitsToNat_concat (bs : List Bool) (b : Bool) : bitsToNat (bs ++ [b]) = 2 * bitsToNat bs + b.toNat := by
  simp only [bitsToNat, List.foldl_append, List.foldl_cons, List.foldl_nil]

theorem bitsToNat_lt (bs : List Bool) : bitsToNat bs < 2 ^ bs.length := by
  induction bs using List.reverseRecOn with
  | nil => exact Nat.one_pos
  | append_singleton bs b ih =>
    have hb := Bool.toNat_lt b
    rw [bitsToNat_concat, List.length_append, List.length_singleton, pow_succ]
    omega

/-- Digit `t` from the front stands at bit `length - 1 - t`. -/
theorem testBit_bitsToNat (bs : List Bool) {t : Nat} (ht : t < bs.length) :
    (bitsToNat bs).testBit (bs.length - 1 - t) = bs.getD t false := by
  induction bs using List.reverseRecOn with
  | nil => exact absurd ht t.not_lt_zero
  | append_singleton bs b ih =>
    rw [bitsToNat_concat, List.length_append, List.length_singleton, Nat.add_sub_cancel]
    by_cases hlast : t < bs.length
    · have digit : bs.length - t = bs.length - 1 - t + 1 := by omega
      rw [List.getD_append _ _ _ _ hlast, digit, Nat.testBit_succ, ← ih hlast]
      congr 1
      have hb := Bool.toNat_lt b
      omega
    · have hlen : t = bs.length := by
        rw [List.length_append, List.length_singleton] at ht
        omega
      rw [hlen, Nat.sub_self, List.getD_append_right _ _ _ _ (le_refl _), Nat.sub_self, Nat.testBit_zero]
      cases b <;> simp

/-- Bit 31 - t of a word is its digit `t`. -/
theorem getLsbD_wordOfBits (f : Fin 32 → Bool) (t : Fin 32) : (wordOfBits f).getLsbD (31 - t.val) = f t := by
  have digits : wordOfBits f = BitVec.ofNat 32 (bitsToNat ((List.finRange 32).map f)) := by
    rw [wordOfBits, bitsToNat, List.foldl_map]
  have hlen : ((List.finRange 32).map f).length = 32 := by rw [List.length_map, List.length_finRange]
  have digit := testBit_bitsToNat ((List.finRange 32).map f) (t := t.val) (by rw [hlen]; exact t.isLt)
  rw [hlen] at digit
  rw [digits, BitVec.getLsbD_ofNat, decide_eq_true (by omega : 31 - t.val < 32), Bool.true_and, digit,
    List.getD_eq_getElem _ _ (by rw [hlen]; exact t.isLt), List.getElem_map, List.getElem_finRange]
  rfl

end Sys2Proof.Machine
end

section
/-! The configuration registers and the windows (10_state.md R45 to R58), the widths of what a read returns (R32), and
the registers after reset (R70). -/

namespace Sys2Proof.Machine

/-! ### Configuration -/

theorem busWrite_of_idle {s : State} (hidle : s.phase = .idle) (r : Reg) (v : Word) :
    busWrite (offsetOf r) 4 v s = writeIdle r v s := by
  rw [busWrite_offsetOf, writeReg_of_idle r v hidle]

theorem srcBits_of_lowWrite (x : BitVec 64) (v : Word) :
    BitVec.ofNat 64 (v.toNat + 2 ^ 32 * (x.toNat / 2 ^ 32)) = x.extractLsb' 32 32 ++ v := by
  have hx := x.isLt
  have hv := v.isLt
  apply BitVec.eq_of_toNat_eq
  rw [BitVec.toNat_append, ← Nat.shiftLeft_add_eq_or_of_lt hv, BitVec.toNat_ofNat, BitVec.extractLsb'_toNat,
    Nat.shiftRight_eq_div_pow, Nat.shiftLeft_eq]
  omega

theorem srcBits_of_highWrite (x : BitVec 64) (v : Word) :
    BitVec.ofNat 64 (x.toNat % 2 ^ 32 + 2 ^ 32 * v.toNat) = v ++ x.extractLsb' 0 32 := by
  have hv := v.isLt
  apply BitVec.eq_of_toNat_eq
  rw [BitVec.toNat_append, ← Nat.shiftLeft_add_eq_or_of_lt (BitVec.isLt _), BitVec.toNat_ofNat,
    BitVec.extractLsb'_toNat, Nat.shiftRight_zero, Nat.shiftLeft_eq]
  omega

theorem extract_low_append (x v : Word) : (x ++ v).extractLsb' 0 32 = v := BitVec.extractLsb'_append_eq_right

theorem extract_high_append (x v : Word) : (x ++ v).extractLsb' 32 32 = x := BitVec.extractLsb'_append_eq_left

/-- Settles O15: each write sets its field, and the reads of the next state are `busRead_configuration` there. -/
theorem configurationWritesReadBack : Obligations.ConfigurationWritesReadBack := by
  intro s v hidle
  have ready {t : State} (ht : t.phase = .idle) : t.phase ≠ .resetting := by simp [ht]
  have write (r : Reg) := busWrite_of_idle hidle r v
  have hctrl : busWrite 0x00C 4 v s = { s with ie := v.getLsbD 0 } := write .ctrl
  have hin : busWrite 0x020 4 v s = { s with inAddr := v } := write .inAddr
  have hlen : busWrite 0x024 4 v s = { s with inLen := v } := write .inLen
  have hout : busWrite 0x028 4 v s = { s with outAddr := v } := write .outAddr
  have hsrc : busWrite 0x03C 4 v s = { s with srcAddr := v } := write .srcAddr
  have hlo : busWrite 0x040 4 v s = { s with srcBits := s.srcBits.extractLsb' 32 32 ++ v } :=
    (write .srcBitsLo).trans (congrArg (fun x => { s with srcBits := x }) (srcBits_of_lowWrite s.srcBits v))
  have hhi : busWrite 0x044 4 v s = { s with srcBits := v ++ s.srcBits.extractLsb' 0 32 } :=
    (write .srcBitsHi).trans (congrArg (fun x => { s with srcBits := x }) (srcBits_of_highWrite s.srcBits v))
  have hdst : busWrite 0x048 4 v s = { s with dstAddr := v } := write .dstAddr
  have value (r : Reg) (hknown : knownWhileRunning r = true) (t : State) (ht : t.phase = .idle) :
      (busRead (offsetOf r) 4 t).1 = regValue r t := congrArg Prod.fst (busRead_of_known r hknown (ready ht))
  have vctrl := (value .ctrl rfl { s with ie := v.getLsbD 0 } hidle).trans (flagWord_eq (v.getLsbD 0))
  have vlo := (value .srcBitsLo rfl { s with srcBits := s.srcBits.extractLsb' 32 32 ++ v } hidle).trans
    ((lowWord_toNat _).trans (extract_low_append (s.srcBits.extractLsb' 32 32) v))
  have vhi := (value .srcBitsHi rfl { s with srcBits := v ++ s.srcBits.extractLsb' 0 32 } hidle).trans
    ((highWord_toNat _).trans (extract_high_append v (s.srcBits.extractLsb' 0 32)))
  obtain ⟨rctrl, rin, rlen, rout, rsrc, rlo, rhi, rdst, rhsel, rcsel, rcwsel, rnsel⟩ :=
    busRead_configuration (ready hidle)
  have rcmd : busRead 0x010 4 s = (0#32, s) := busRead_of_known .cmd rfl (ready hidle)
  rw [hctrl, hin, hlen, hout, hsrc, hlo, hhi, hdst]
  exact ⟨rfl, vctrl, rfl, value .inAddr rfl { s with inAddr := v } hidle, rfl,
    value .inLen rfl { s with inLen := v } hidle, rfl, value .outAddr rfl { s with outAddr := v } hidle, rfl,
    value .srcAddr rfl { s with srcAddr := v } hidle, rfl, vlo, rfl, vhi, rfl,
    value .dstAddr rfl { s with dstAddr := v } hidle, rctrl, rcmd, rin, rlen, rout, rsrc, rlo, rhi, rdst, rhsel,
    rcsel, rcwsel, rnsel⟩

/-! ### The windows -/

theorem symBits_cases (c : Config) : c.symBits = 8 ∨ c.symBits = 16 := by
  unfold Config.symBits
  cases c.symW
  · exact .inl rfl
  · exact .inr rfl

/-- A selector of `n` bits keeps the value cut to `m ≤ n` bits. -/
theorem toNat_ofNat_lowBits {n m : Nat} (hm : m ≤ n) (v : Word) :
    (BitVec.ofNat n (lowBits m v)).toNat = v.toNat % 2 ^ m := by
  rw [BitVec.toNat_ofNat, lowBits]
  exact Nat.mod_eq_of_lt ((Nat.mod_lt _ (Nat.two_pow_pos m)).trans_le (Nat.pow_le_pow_right Nat.two_pos hm))

theorem symBits_le (c : Config) : c.symBits ≤ 16 := by have := symBits_cases c; omega

theorem nidxBits_le (c : Config) : c.nidxBits ≤ 17 := Nat.succ_le_succ (symBits_le c)

/-- Settles O16: HSEL keeps the low bits, and HDATA is the entry of HIST there. -/
theorem histogramWindow : Obligations.HistogramWindow := by
  refine ⟨rfl, fun s v hidle hwf => ⟨⟨_, busWrite_of_idle hidle .hsel v, toNat_ofNat_lowBits (symBits_le s.cfg) v⟩,
    fun hseen => busRead_of_seen .hdata hidle hseen (by decide), _, busWrite_of_idle hidle .hdata v, ?_, ?_⟩⟩
  · exact Sparse.get_set_same 0 s.hist hwf _ v
  · exact fun x hx => Sparse.get_set_other 0 s.hist _ x v hx

theorem busWrite_keeps_tables (off n : Nat) (v : Word) (s : State) :
    (busWrite off n v s).tree = s.tree ∧ (busWrite off n v s).ct = s.ct := by
  rcases busWrite_cases off n v s with e | ⟨r, e⟩
  · rw [e]
    exact ⟨rfl, rfl⟩
  · obtain ⟨-, -, htree, hct, -⟩ := writeReg_frame r v s
    rw [e]
    exact ⟨htree, hct⟩

/-- Bit 31 - t of CWORD is code bit 32*CWSEL + t, 0 beyond the code (10_state.md R57). -/
theorem getLsbD_cwordValue (code : List Bool) (cwsel : Nat) {t : Nat} (ht : t < 32) :
    (cwordValue code cwsel).getLsbD (31 - t) =
      if 32 * cwsel + t < code.length then code.getD (32 * cwsel + t) false else false := by
  rw [cwordValue, getLsbD_wordOfBits _ ⟨t, ht⟩, codeBit]
  split_ifs with hin
  · rfl
  · exact List.getD_eq_default _ _ (Nat.le_of_not_lt hin)

/-- Settles O17: the selectors keep their low bits, and CLEN and CWORD show the selected code. -/
theorem codeTableWindow : Obligations.CodeTableWindow := by
  refine ⟨rfl, rfl, fun s off n v => (busWrite_keeps_tables off n v s).2, fun s v hidle =>
    ⟨⟨_, busWrite_of_idle hidle .csel v, toNat_ofNat_lowBits (symBits_le s.cfg) v⟩,
      ⟨_, busWrite_of_idle hidle .cwsel v, toNat_ofNat_lowBits (le_refl 16) v⟩,
      fun hseen => ⟨busRead_of_seen .clen hidle hseen (by decide), _, busRead_of_seen .cword hidle hseen (by decide),
        ?_⟩⟩⟩
  rintro t _ ht rfl
  exact getLsbD_cwordValue _ _ ht

theorem nodeWindow_of_lt {s : State} (h : s.nsel.toNat < s.tree.nnodes) (f : Node → Word) :
    nodeWindow s f = f (s.nodeAt s.nsel.toNat) := by
  simp only [nodeWindow, selectedNode, if_pos h]

theorem nodeWindow_of_le {s : State} (h : s.tree.nnodes ≤ s.nsel.toNat) (f : Node → Word) : nodeWindow s f = 0 := by
  simp only [nodeWindow, selectedNode, if_neg (Nat.not_lt.2 h)]

/-- A node of a tree is a leaf or an internal node as 42_tree.md R226 says. -/
theorem leafOk_or_internalOk {c : Config} {t : Tree} (h : TreeShape c t) {k : Nat} (hk : k < t.nnodes) :
    LeafOk c (nodeAt t.node k) ∨ InternalOk t.node k := by
  obtain ⟨-, -, hleaf, -, hinternal, -⟩ := h
  rcases Nat.lt_or_ge k t.nsyms with hlt | hge
  · exact .inl (hleaf k hlt)
  · exact .inr (hinternal k hk hge)

theorem nsym_le (c : Config) : c.nsym ≤ 2 ^ 16 := Nat.pow_le_pow_right Nat.two_pos (symBits_le c)

theorem sym_lt_of_treeShape {c : Config} {t : Tree} (h : TreeShape c t) {k : Nat} (hk : k < t.nnodes) :
    (nodeAt t.node k).sym < c.nsym := by
  rcases leafOk_or_internalOk h hk with ⟨-, hsym, -⟩ | ⟨-, hsym, -⟩
  · exact hsym
  · rw [hsym]
    exact Nat.two_pow_pos _

/-- NINFO holds the leaf flag above the symbol (10_state.md R58). -/
theorem ninfoOf_eq {x : Node} (hsym : x.sym < 2 ^ 31) :
    ninfoOf x = (if x.leaf then 0x80000000#32 else 0#32) ||| BitVec.ofNat 32 x.sym := by
  cases hleaf : x.leaf with
  | false => rw [ninfoOf, hleaf, Bool.toNat_false, Nat.mul_zero, Nat.zero_add]; exact BitVec.zero_or.symm
  | true =>
    have number : (0x80000000#32 ||| BitVec.ofNat 32 x.sym).toNat = 0x80000000 + x.sym := by
      rw [BitVec.toNat_or, BitVec.toNat_ofNat, BitVec.toNat_ofNat, Nat.mod_eq_of_lt (by omega : x.sym < 2 ^ 32)]
      exact (Nat.two_pow_add_eq_or_of_lt hsym 1).symm
    apply BitVec.eq_of_toNat_eq
    rw [if_pos rfl, number, ninfoOf, hleaf, BitVec.toNat_ofNat, Bool.toNat_true]
    omega

/-- A node's weight fits WGT_W bits, so that its high word fits NWGT_HI (10_state.md R58, R62). -/
theorem highWeight_lt {c : Config} {w : Nat} (h : w < 2 ^ c.wgtBits) : w / 2 ^ 32 < 2 ^ c.symBits := by
  rw [Config.wgtBits, pow_add] at h
  exact Nat.div_lt_of_lt_mul h

theorem weight_lt {c : Config} {t : Tree} (h : TreeShape c t) {k : Nat} (hk : k < t.nnodes) :
    (nodeAt t.node k).w < 2 ^ c.wgtBits := by
  obtain ⟨-, -, -, -, -, hweight, -⟩ := h
  exact hweight k hk

theorem toNat_highWord {n : Nat} (h : n / 2 ^ 32 < 2 ^ 32) : (highWord n).toNat = n / 2 ^ 32 := by
  rw [highWord, BitVec.toNat_ofNat, Nat.mod_eq_of_lt h]

/-- The node registers below NNODES (10_state.md R58). -/
theorem busRead_nodeWindow_of_lt {s : State} (hidle : s.phase = .idle) (hshape : TreeShape s.cfg s.tree)
    (hseen : s.host.unseen = false) (hsel : s.nsel.toNat < s.tree.nnodes) :
    ∃ x, x = s.nodeAt s.nsel.toNat ∧
      busRead 0x08C 4 s = ((if x.leaf then 0x80000000#32 else 0#32) ||| BitVec.ofNat 32 x.sym, s) ∧
      busRead 0x090 4 s = (BitVec.ofNat 32 x.left, s) ∧ busRead 0x094 4 s = (BitVec.ofNat 32 x.right, s) ∧
      (busRead 0x098 4 s).1.toNat = x.w % 2 ^ 32 ∧
      (busRead 0x09C 4 s).1.toNat = x.w / 2 ^ 32 ∧ x.w / 2 ^ 32 < 2 ^ (s.cfg.wgtBits - 32) := by
  have read (r : Reg) (hstatus : r ≠ .status) := busRead_of_seen r hidle hseen hstatus
  have field := nodeWindow_of_lt hsel
  have hsym : (s.nodeAt s.nsel.toNat).sym < 2 ^ 31 :=
    (sym_lt_of_treeShape hshape hsel).trans_le ((nsym_le s.cfg).trans (by decide))
  have hhigh := highWeight_lt (weight_lt hshape hsel)
  refine ⟨_, rfl, ?_, ?_, ?_, ?_, ?_, ?_⟩
  · exact (read .ninfo (by decide)).trans (by rw [regValue, field, ninfoOf_eq hsym])
  · exact (read .nleft (by decide)).trans (by rw [regValue, field, lowWord])
  · exact (read .nright (by decide)).trans (by rw [regValue, field, lowWord])
  · have value := congrArg Prod.fst (read .nwgtLo (by decide))
    rw [regValue, field] at value
    exact (congrArg BitVec.toNat value).trans (BitVec.toNat_ofNat _ _)
  · have value := congrArg Prod.fst (read .nwgtHi (by decide))
    rw [regValue, field] at value
    exact (congrArg BitVec.toNat value).trans
      (toNat_highWord (hhigh.trans_le (Nat.pow_le_pow_right Nat.two_pos ((symBits_le s.cfg).trans (by decide)))))
  · exact hhigh.trans_eq (by rw [Config.wgtBits, Nat.add_sub_cancel_left])

/-- The node registers at NNODES and beyond (10_state.md R58). -/
theorem busRead_nodeWindow_of_le {s : State} (hidle : s.phase = .idle) (hseen : s.host.unseen = false)
    (hsel : s.tree.nnodes ≤ s.nsel.toNat) {off : Nat} (hoff : off ∈ [0x08C, 0x090, 0x094, 0x098, 0x09C]) :
    busRead off 4 s = (0, s) := by
  have window : ∀ r ∈ [Reg.ninfo, .nleft, .nright, .nwgtLo, .nwgtHi], regValue r s = 0 ∧ r ≠ .status := by
    have empty := nodeWindow_of_le hsel
    simp [regValue, empty]
  have offsets : [0x08C, 0x090, 0x094, 0x098, 0x09C] = [Reg.ninfo, .nleft, .nright, .nwgtLo, .nwgtHi].map offsetOf :=
    rfl
  rw [offsets, List.mem_map] at hoff
  obtain ⟨r, hr, rfl⟩ := hoff
  obtain ⟨hvalue, hstatus⟩ := window r hr
  rw [busRead_of_seen r hidle hseen hstatus, hvalue]

/-! ### Widths -/

/-- A number below 2^n has no bit outside the mask of its low n bits. -/
theorem and_not_mask_eq_zero {w : Word} {n mask : Nat} (hmask : mask = 2 ^ n - 1) (h : w.toNat < 2 ^ n) :
    w &&& ~~~ BitVec.ofNat 32 mask = 0 := by
  subst hmask
  apply BitVec.eq_of_getLsbD_eq
  intro i hi
  rw [BitVec.getLsbD_and, BitVec.getLsbD_not, BitVec.getLsbD_ofNat, Nat.testBit_two_pow_sub_one]
  rcases Nat.lt_or_ge i n with hlow | hhigh
  · simp [hi, hlow]
  · have : w.getLsbD i = false := Nat.testBit_lt_two_pow (h.trans_le (Nat.pow_le_pow_right Nat.two_pos hhigh))
    simp [this]

theorem and_and_not_self (w m : Word) : w &&& m &&& ~~~ m = 0 := by
  rw [BitVec.and_assoc, BitVec.and_not_self]
  exact BitVec.and_zero

theorem toNat_ofNat_lt {n bound : Nat} (h : n < bound) : (BitVec.ofNat 32 n).toNat < bound := by
  rw [BitVec.toNat_ofNat]
  exact (Nat.mod_le _ _).trans_lt h

/-- A register of full width has no bit beyond it. -/
theorem within_word (w : Word) : w &&& ~~~ BitVec.ofNat 32 0xFFFFFFFF = 0 :=
  and_not_mask_eq_zero (n := 32) rfl w.isLt

/-- NNODES is at most MAXNODES (10_state.md R62, 42_tree.md R226). -/
theorem nnodes_le_maxNodes {c : Config} {t : Tree} (h : TreeShape c t) : t.nnodes ≤ c.maxNodes := by
  obtain ⟨⟨hempty, hdegen, hnormal⟩, hsyms, -⟩ := h
  have hpos : 0 < c.nsym := Nat.two_pow_pos _
  rw [Config.maxNodes]
  cases hkind : t.kind with
  | empty => have := hempty hkind; omega
  | degen => have := hdegen hkind; omega
  | normal => have := hnormal hkind; omega

theorem root_lt {c : Config} {t : Tree} (h : TreeShape c t) : t.root < 2 * c.nsym := by
  obtain ⟨⟨hempty, hdegen, hnormal⟩, hsyms, -⟩ := h
  have hpos : 0 < c.nsym := Nat.two_pow_pos _
  cases hkind : t.kind with
  | empty => have := hempty hkind; omega
  | degen => have := hdegen hkind; omega
  | normal => have := hnormal hkind; omega

theorem two_mul_nsym (c : Config) : 2 * c.nsym = 2 ^ c.nidxBits := by
  rw [Config.nsym, Config.nidxBits, pow_succ, Nat.mul_comm]

theorem children_lt {c : Config} {t : Tree} (h : TreeShape c t) {k : Nat} (hk : k < t.nnodes) :
    (nodeAt t.node k).left < 2 ^ c.nidxBits ∧ (nodeAt t.node k).right < 2 ^ c.nidxBits := by
  have hnodes := nnodes_le_maxNodes h
  have hsize := two_mul_nsym c
  rw [Config.maxNodes] at hnodes
  rcases leafOk_or_internalOk h hk with ⟨-, -, -, -, hl, hr⟩ | ⟨-, -, hl, hr, -⟩ <;> omega

/-- A field of the selected node stays within a mask when the field of every node and 0 do. -/
theorem nodeWindow_within {s : State} {f : Node → Word} {m : Word}
    (h : ∀ k < s.tree.nnodes, f (s.nodeAt k) &&& m = 0) : nodeWindow s f &&& m = 0 := by
  rcases Nat.lt_or_ge s.nsel.toNat s.tree.nnodes with hlt | hge
  · rw [nodeWindow_of_lt hlt, h _ hlt]
  · rw [nodeWindow_of_le hge, BitVec.ofNat_eq_ofNat, BitVec.zero_and]

/-- The leaf flag is bit 31 of NINFO, the symbol its low half (10_state.md R58). -/
theorem ninfo_within {x : Node} (hsym : x.sym < 2 ^ 16) : ninfoOf x &&& ~~~ 0x8000FFFF#32 = 0 := by
  have mask : ~~~ 0x8000FFFF#32 = ~~~ BitVec.ofNat 32 (2 ^ 16 - 1) &&& ~~~ 0x80000000#32 := by decide
  have symbol : BitVec.ofNat 32 x.sym &&& ~~~ 0x8000FFFF#32 = 0 := by
    rw [mask, ← BitVec.and_assoc, and_not_mask_eq_zero (n := 16) rfl (toNat_ofNat_lt hsym)]
    exact BitVec.zero_and
  have flag : (if x.leaf then 0x80000000#32 else 0#32) &&& ~~~ 0x8000FFFF#32 = 0 := by
    cases x.leaf <;> decide
  rw [ninfoOf_eq (hsym.trans (by decide)), BitVec.and_comm, BitVec.and_or_distrib_left, BitVec.and_comm, flag,
    BitVec.and_comm, symbol]
  rfl

theorem clen_le {s : State} (hinv : TableInv s) (x : Nat) : (s.codeAt x).length ≤ s.cfg.maxCode := by
  obtain ⟨-, -, hlen, -⟩ := hinv
  by_cases hnil : s.codeAt x = []
  · rw [hnil]
    exact Nat.zero_le _
  · exact hlen _ (Sparse.mem_of_get_ne [] s.ct x hnil)

/-- Every register's value stays within its width used (10_state.md R32). -/
theorem regValue_within {s : State} (hinv : Inv s) (r : Reg) :
    regValue r s &&& ~~~ BitVec.ofNat 32 (usedBits s.cfg r) = 0 := by
  obtain ⟨-, ⟨-, -, hhsel, hcsel, hnsel⟩, -, ⟨hcnt, -⟩, -, ⟨-, -, hshape⟩, htable⟩ := hinv
  have hnodes := nnodes_le_maxNodes hshape
  have hsyms : s.tree.nsyms ≤ 2 ^ 16 := hshape.2.1.trans (nsym_le s.cfg)
  rw [Config.maxNodes] at hnodes
  have halphabet := nsym_le s.cfg
  cases r with
  | id | config | memsz | cmd | errAddr | errInfo | inAddr | inLen | outAddr => exact within_word _
  | outBitsLo | outBitsHi | outBytesLo | outBytesHi | srcAddr | srcBitsLo | srcBitsHi =>
    exact within_word _
  | dstAddr | dstLenLo | dstLenHi | rposLo | rposHi | hdata | cword | nwgtLo => exact within_word _
  | ctrl | rstate => exact and_not_mask_eq_zero (n := 1) rfl (toNat_ofNat_lt (Bool.toNat_lt _))
  | status =>
    have hlow := statusLow_lt s
    have hhigh := statusHigh_lt s
    exact and_not_mask_eq_zero (n := 15) rfl (toNat_ofNat_lt (by omega))
  | nsyms => exact and_not_mask_eq_zero (n := 17) rfl (toNat_ofNat_lt (by omega))
  | nnodes => exact and_not_mask_eq_zero (n := 18) rfl (toNat_ofNat_lt (by omega))
  | root => exact and_not_mask_eq_zero rfl (toNat_ofNat_lt ((root_lt hshape).trans_eq (two_mul_nsym s.cfg)))
  | wstate =>
    have hacc := s.wr.wacc.isLt
    exact and_not_mask_eq_zero (n := 12) rfl (toNat_ofNat_lt (by omega))
  | hsel => exact and_not_mask_eq_zero rfl (toNat_ofNat_lt hhsel)
  | csel => exact and_not_mask_eq_zero rfl (toNat_ofNat_lt hcsel)
  | cwsel => exact and_not_mask_eq_zero (n := 16) rfl (toNat_ofNat_lt s.cwsel.isLt)
  | nsel => exact and_not_mask_eq_zero rfl (toNat_ofNat_lt hnsel)
  | clen =>
    have hlen := clen_le htable s.csel.toNat
    rw [Config.maxCode] at hlen
    exact and_not_mask_eq_zero (n := 16) rfl (toNat_ofNat_lt (by omega))
  | ninfo => exact nodeWindow_within fun k hk => ninfo_within ((sym_lt_of_treeShape hshape hk).trans_le halphabet)
  | nleft => exact nodeWindow_within fun k hk => and_not_mask_eq_zero rfl (toNat_ofNat_lt (children_lt hshape hk).1)
  | nright => exact nodeWindow_within fun k hk => and_not_mask_eq_zero rfl (toNat_ofNat_lt (children_lt hshape hk).2)
  | nwgtHi =>
    exact nodeWindow_within fun k hk =>
      and_not_mask_eq_zero rfl (toNat_ofNat_lt (highWeight_lt (weight_lt hshape hk)))

/-- STATUS while a command runs has no bit above 14, whatever the free value is (log 16). -/
theorem statusWhileRunning_within (free : Word) (s : State) :
    statusWhileRunning free s &&& ~~~ BitVec.ofNat 32 (usedBits s.cfg .status) = 0 := by
  have hlow := statusLow_lt s
  have hfree := Nat.mod_lt free.toNat (by omega : 0 < 128)
  exact and_not_mask_eq_zero (n := 15) rfl (toNat_ofNat_lt (by omega))

/-- Settles O19: a read is the register's value, a free value cut to the width, or STATUS while a command runs. -/
theorem readsStayWithinTheUsedBits : Obligations.ReadsStayWithinTheUsedBits := by
  intro s r hinv hstatus
  rw [busRead_offsetOf, readReg]
  have free : (freeOf r s).1 &&& ~~~ BitVec.ofNat 32 (usedBits s.cfg r) = 0 := and_and_not_self _ _
  have value := regValue_within hinv r
  split
  case h_1 hreset => rw [if_neg fun hr => hstatus hr hreset]; exact free
  case h_2 =>
    split_ifs with hr
    · subst hr
      exact statusWhileRunning_within _ s
    · exact value
    · exact free
  case h_3 =>
    split_ifs with hr
    · subst hr
      exact value
    · exact free
    · exact value

/-! ### After reset -/

/-- Settles O22: the 40 registers one by one; no other offset reaches a register. -/
theorem registersAfterReset : Obligations.RegistersAfterReset := by
  refine ⟨rfl, fun off => ?_⟩
  cases hreg : regOf off 4 with
  | some r =>
    obtain ⟨-, rfl⟩ := regOf_some hreg
    rw [busRead_offsetOf]
    cases r <;> rfl
  | none =>
    have other (r : Reg) : off ≠ offsetOf r := by
      rintro rfl
      rw [regOf_offsetOf] at hreg
      cases hreg
    have hid : off ≠ 0x000 := other .id
    have hconfig : off ≠ 0x004 := other .config
    have hmemsz : off ≠ 0x008 := other .memsz
    rw [busRead_of_none hreg, if_neg hid, if_neg hconfig, if_neg hmemsz]
    rfl

/-! ### HOST and the data memory -/

theorem hostMemWrite_of_inRange {s : State} {a : Nat} (ha : a < s.cfg.memSize) (v : Byte) :
    hostMemWrite a v s =
      if writeViolates s a then .fault (.footprintViolation a)
      else .next (nextStmt { s with mem := s.mem.write a v }) := by
  have hin : inRange s a 1 = true := decide_eq_true ha
  simp only [hostMemWrite, hin, Bool.true_eq_false, if_false]

theorem hostMemRead_of_inRange {s : State} {a : Nat} (ha : a < s.cfg.memSize) :
    hostMemRead a s =
      if readViolates s a then .fault (.footprintViolation a)
      else .next (nextStmt { s with host := { s.host with rdata := (s.mem.read a).setWidth 32 } }) := by
  have hin : inRange s a 1 = true := decide_eq_true ha
  simp only [hostMemRead, hin, Bool.true_eq_false, if_false]

theorem writeViolates_iff (s : State) (a : Nat) :
    writeViolates s a = true ↔ ∃ p ∈ s.host.guard, p.base ≤ a ∧ a < p.base + p.len := by
  simp [writeViolates, Span.has]

theorem readViolates_iff (s : State) (a : Nat) :
    readViolates s a = true ↔ ∃ p ∈ s.host.guard, p.dir = .write ∧ p.base ≤ a ∧ a < p.base + p.len := by
  simp [readViolates, Span.has]

/-- Settles O21: the guard decides, and a STATUS read while idle or a taken irq empties it. -/
theorem footprintDutyOfHost : Obligations.FootprintDutyOfHost := by
  intro s a v ha hwf
  refine ⟨fun hin => ?writeStops, fun hin => ?readStops, fun hout => ?writes, fun hout => ?reads, fun hidle => ?status,
    fun hirq => ?irq⟩
  case writeStops => exact (hostMemWrite_of_inRange ha v).trans (if_pos ((writeViolates_iff s a).2 hin))
  case readStops => exact (hostMemRead_of_inRange ha).trans (if_pos ((readViolates_iff s a).2 hin))
  case writes =>
    have free : ¬ writeViolates s a = true := by
      rw [writeViolates_iff]
      rintro ⟨p, hp, hle, hlt⟩
      have := hout p hp
      omega
    exact ⟨_, (hostMemWrite_of_inRange ha v).trans (if_neg free), Memory.read_write_same s.mem hwf a v,
      fun x hx => Memory.read_write_other s.mem a x v hx⟩
  case reads =>
    have free : ¬ readViolates s a = true := by
      rw [readViolates_iff]
      rintro ⟨p, hp, hdir, hle, hlt⟩
      have := hout p hp hdir
      omega
    exact ⟨_, (hostMemRead_of_inRange ha).trans (if_neg free), BitVec.toNat_setWidth_of_le (by omega), rfl⟩
  case status =>
    have read : busRead 0x014 4 s = _ := (busRead_offsetOf .status s).trans (readReg_status_of_idle hidle)
    rw [read]
    exact ⟨rfl, rfl⟩
  case irq => exact ⟨_, if_pos hirq, rfl, rfl⟩

end Sys2Proof.Machine

namespace Sys2Proof

open Sys2Proof.Machine

/-- Settles O18: NSEL keeps its low bits, and the node registers show the selected node, or 0. The theorem stands
outside the machine's namespace, where the name is taken. -/
theorem nodeWindow : Obligations.NodeWindow :=
  ⟨rfl, fun s off n v => (busWrite_keeps_tables off n v s).1, fun s v hidle ⟨_, _, hshape⟩ =>
    ⟨⟨_, busWrite_of_idle hidle .nsel v, toNat_ofNat_lowBits (nidxBits_le s.cfg) v⟩,
      busRead_nodeWindow_of_lt hidle hshape, fun hseen hsel _ => busRead_nodeWindow_of_le hidle hseen hsel⟩⟩

end Sys2Proof
end

section
/-! The commands' loops as sequences of runs: what holds of the state a run goes on with, or has raised in, is carried
from step to step (00_scope.md R3). -/

namespace Sys2Proof.Machine

/-- Goes on with `f` where the run goes on. -/
def Run.bind {α β : Type} (r : Run α) (f : α → State → Run β) : Run β :=
  match r with
  | .ok a s => f a s
  | .raised e s => .raised e s

/-- Applies `g` to the state a run has raised in. -/
def Run.onRaise {α : Type} (r : Run α) (g : State → State) : Run α :=
  match r with
  | .ok a s => .ok a s
  | .raised e s => .raised e (g s)

@[simp] theorem Run.bind_ok {α β : Type} (a : α) (s : State) (f : α → State → Run β) :
    (Run.ok a s).bind f = f a s := rfl

@[simp] theorem Run.bind_raised {α β : Type} (e : Err) (s : State) (f : α → State → Run β) :
    (Run.raised e s).bind f = .raised e s := rfl

@[simp] theorem Run.onRaise_ok {α : Type} (a : α) (s : State) (g : State → State) :
    (Run.ok a s).onRaise g = .ok a s := rfl

@[simp] theorem Run.onRaise_raised {α : Type} (e : Err) (s : State) (g : State → State) :
    (Run.raised e s : Run α).onRaise g = .raised e (g s) := rfl

/-! ### The model's operations as sequences -/

section
variable (op : Nat) (s : State)

theorem writeBits_cons (b : Bool) (bs : List Bool) :
    writeBits op (b :: bs) s = (writeBit op b s).bind fun _ => writeBits op bs := by
  rw [writeBits]
  cases writeBit op b s <;> rfl

theorem encodeLoop_succ (n i : Nat) :
    encodeLoop op (n + 1) i s =
      ((readInSym op i s).onRaise wCloseOnError).bind fun x t =>
        (encodeSym op (t.inSymAddr i) x t).bind fun _ => encodeLoop op n (i + 1) := by
  rw [encodeLoop]
  cases readInSym op i s with
  | ok x t => simp only [Run.onRaise_ok, Run.bind_ok]; cases encodeSym op (t.inSymAddr i) x t <;> rfl
  | raised e t => rfl

theorem compressBody_eq :
    compressBody op s = (encodeLoop op s.inCount 0 (wOpen s.outAddr s)).bind fun _ => wClose op := by
  rw [compressBody]
  cases encodeLoop op s.inCount 0 (wOpen s.outAddr s) <;> rfl

theorem countLoop_succ (n i : Nat) :
    countLoop op (n + 1) i s = (readInSym op i s).bind fun x t => countLoop op n (i + 1) (countSym x t) := by
  rw [countLoop]
  cases readInSym op i s <;> rfl

theorem emitIfLeaf_eq (pos : Nat) :
    emitIfLeaf op pos s =
      if (s.nodeAt pos).leaf then (emit op (s.nodeAt pos).sym s).bind fun _ t => .ok t.tree.root t else .ok pos s := by
  rw [emitIfLeaf]
  cases emit op (s.nodeAt pos).sym s <;> rfl

theorem decodeLoop_succ (n pos : Nat) :
    decodeLoop op (n + 1) pos s =
      if s.hasMore then
        (emitIfLeaf op pos s).bind fun p t =>
          (readBit op t).bind fun b u => decodeLoop op n (walkBit b p u) u
      else .ok pos s := by
  rw [decodeLoop]
  cases emitIfLeaf op pos s with
  | ok p t => simp only [Run.bind_ok]; cases readBit op t <;> rfl
  | raised e t => rfl

theorem decodeBody_eq :
    decodeBody op s =
      (decodeLoop op s.srcBits.toNat s.tree.root (rOpen s.srcAddr s.srcBits.toNat s)).bind fun pos t =>
        (finalEmit op pos t).bind fun _ u => .ok () (closeDecoder u) := by
  rw [decodeBody]
  cases decodeLoop op s.srcBits.toNat s.tree.root (rOpen s.srcAddr s.srcBits.toNat s) with
  | ok pos t => simp only [Run.bind_ok]; cases finalEmit op pos t <;> rfl
  | raised e t => rfl

theorem decompressBody_of_tree (htree : s.tree.kind ≠ .empty) :
    decompressBody op s = decodeBody op { s with dstValid := false, dstLen := 0 } := if_neg htree

theorem deliverBit_eq :
    deliverBit op s = (readBit op s).bind fun b t => .ok () { t with rd := { t.rd with rdata := b } } := by
  rw [deliverBit]
  cases readBit op s <;> rfl

end

/-! ### How a run ends -/

/-- The run goes on in a state that meets `P`, or it has raised in one that meets `Q`. -/
def Run.Ends {α : Type} (P : α → State → Prop) (Q : Err → State → Prop) : Run α → Prop
  | .ok a s => P a s
  | .raised e s => Q e s

namespace Run.Ends

variable {α β : Type} {P P' : α → State → Prop} {Q Q' : Err → State → Prop} {r : Run α}

theorem mono (h : r.Ends P Q) (hP : ∀ a s, P a s → P' a s) (hQ : ∀ e s, Q e s → Q' e s) : r.Ends P' Q' := by
  cases r with
  | ok a s => exact hP a s h
  | raised e s => exact hQ e s h

theorem bind {f : α → State → Run β} {R : β → State → Prop} (h : r.Ends P Q)
    (hf : ∀ a s, P a s → (f a s).Ends R Q) : (r.bind f).Ends R Q := by
  cases r with
  | ok a s => exact hf a s h
  | raised e s => exact h

theorem onRaise {g : State → State} (h : r.Ends P fun e s => Q e (g s)) : (r.onRaise g).Ends P Q := by
  cases r with
  | ok a s => exact h
  | raised e s => exact h

theorem state {I : State → Prop} (h : r.Ends (fun _ => I) (fun _ => I)) : I r.state := by
  cases r with
  | ok a s => exact h
  | raised e s => exact h

end Run.Ends

/-! ### The rules of the loops -/

section
variable {op : Nat}

section
variable {P : State → Prop} {Q : Err → State → Prop}

theorem writeBits_ends (hbit : ∀ b s, P s → (writeBit op b s).Ends (fun _ => P) Q) (bs : List Bool) {s : State}
    (hs : P s) : (writeBits op bs s).Ends (fun _ => P) Q := by
  induction bs generalizing s with
  | nil => exact hs
  | cons b bs ih =>
    rw [writeBits_cons]
    exact (hbit b s hs).bind fun _ t ht => ih ht

theorem encodeSym_ends (hbit : ∀ b s, P s → (writeBit op b s).Ends (fun _ => P) Q)
    (habsent : ∀ a x s, P s → Q (absentErr a x) (wCloseOnError s)) (a x : Nat) {s : State} (hs : P s) :
    (encodeSym op a x s).Ends (fun _ => P) Q := by
  unfold encodeSym
  split
  · exact habsent a x s hs
  · exact writeBits_ends hbit _ hs

/-- The encoder's loop keeps what every bit keeps; it raises where a bit does, at a symbol without a code, or at one
that does not exist (44_encode.md R271, R272, R276). -/
theorem encodeLoop_ends (hbit : ∀ b s, P s → (writeBit op b s).Ends (fun _ => P) Q)
    (habsent : ∀ a x s, P s → Q (absentErr a x) (wCloseOnError s))
    (hread : ∀ a s, P s → Q (busErr op a .read) (wCloseOnError s)) (n i : Nat) {s : State} (hs : P s) :
    (encodeLoop op n i s).Ends (fun _ => P) Q := by
  induction n generalizing i s with
  | zero => exact hs
  | succ n ih =>
    have read : (readInSym op i s).Ends (fun _ => P) fun e t => Q e (wCloseOnError t) := by
      rcases readInSym_cases op i s with ⟨-, run⟩ | ⟨-, run⟩ <;> rw [run]
      · exact hs
      · exact hread _ s hs
    rw [encodeLoop_succ]
    exact read.onRaise.bind fun x t ht => (encodeSym_ends hbit habsent _ x ht).bind fun _ u hu => ih (i + 1) hu

theorem countLoop_ends (hcount : ∀ x s, x < s.cfg.nsym → P s → P (countSym x s))
    (hread : ∀ a s, P s → Q (busErr op a .read) s) (n i : Nat) {s : State} (hs : P s) :
    (countLoop op n i s).Ends (fun _ => P) Q := by
  induction n generalizing i s with
  | zero => exact hs
  | succ n ih =>
    rw [countLoop_succ]
    rcases readInSym_cases op i s with ⟨-, run⟩ | ⟨-, run⟩ <;> rw [run]
    · exact ih (i + 1) (hcount _ s (inSym_lt_nsym s i) hs)
    · exact hread _ s hs

end

/-- The decoder's loop: `P` holds before each pass, with the passes left, and `R` between the emission and the read of
the bit (45_decode.md R301). It goes on with no pass left or no bit left. -/
theorem decodeLoop_ends {P R : Nat → Nat → State → Prop} {Q : Err → State → Prop}
    (hemit : ∀ n pos s, P (n + 1) pos s → s.hasMore = true → (emitIfLeaf op pos s).Ends (R n) Q)
    (hread : ∀ n pos s, R n pos s → (readBit op s).Ends (fun b t => P n (walkBit b pos t) t) Q) {n pos : Nat}
    {s : State} (hs : P n pos s) :
    (decodeLoop op n pos s).Ends (fun p t => ∃ m, P m p t ∧ (m = 0 ∨ t.hasMore = false)) Q := by
  induction n generalizing pos s with
  | zero => exact ⟨0, hs, .inl rfl⟩
  | succ n ih =>
    rw [decodeLoop_succ]
    split
    · next hmore =>
      exact (hemit n pos s hs hmore).bind fun p t ht => (hread n p t ht).bind fun b u hu => ih hu
    · next hnone => exact ⟨n + 1, hs, .inr (Bool.eq_false_iff.2 hnone)⟩

end

end Sys2Proof.Machine
end

section
/-! The writer's invariant through every operation on it (10_state.md R65; 40_stream.md R164 to R167): the counters stay
consistent, and no byte outside WBASE .. WBASE + WBYTES - 1 changes. From it the frame of COMPRESS, whatever its regions
(44_encode.md R271, R276). -/

namespace Sys2Proof.Machine

/-! ### Open and closed writers -/

/-- The counters of an open writer in a memory of `size` bytes. -/
structure OpenWriter (size : Nat) (w : Writer) : Prop where
  open_eq : w.wopen = true
  valid_eq : w.outValid = false
  cnt_lt : w.wcnt < 8
  acc_lt : w.wacc.toNat < 2 ^ w.wcnt
  bytes_le : w.wbytes ≤ size
  bits_eq : w.wbits = 8 * w.wbytes + w.wcnt

/-- The counters of a closed writer; the partial byte of an artifact write that failed may still be there. -/
structure ClosedWriter (size : Nat) (w : Writer) : Prop where
  open_eq : w.wopen = false
  cnt_le : w.wcnt ≤ 8
  acc_lt : w.wacc.toNat < 2 ^ w.wcnt
  bytes_le : w.wbytes ≤ size
  bits_le : w.wbits ≤ 8 * w.wbytes + w.wcnt
  valid : w.outValid = true → w.wcnt = 0 ∧ w.wbytes = (w.wbits + 7) / 8

theorem writerInv_iff (s : State) : WriterInv s ↔ OpenWriter s.cfg.memSize s.wr ∨ ClosedWriter s.cfg.memSize s.wr := by
  constructor
  · rintro ⟨hcnt, hacc, hbytes, hbits, hopen, hvalid⟩
    cases ho : s.wr.wopen with
    | true =>
      obtain ⟨hlt, heq, hv⟩ := hopen ho
      exact .inl ⟨ho, hv, hlt, hacc, hbytes, heq⟩
    | false => exact .inr ⟨ho, hcnt, hacc, hbytes, hbits, hvalid⟩
  · rintro (⟨ho, hv, hlt, hacc, hbytes, heq⟩ | ⟨ho, hcnt, hacc, hbytes, hbits, hvalid⟩)
    · exact ⟨hlt.le, hacc, hbytes, heq.le, fun _ => ⟨hlt, heq, hv⟩, fun h => absurd (hv.symm.trans h) (by decide)⟩
    · exact ⟨hcnt, hacc, hbytes, hbits, fun h => absurd (ho.symm.trans h) (by decide), hvalid⟩

theorem shiftIn_wacc_lt (b : Bool) {w : Writer} (h : w.wacc.toNat < 2 ^ w.wcnt) :
    (shiftIn b w).wacc.toNat < 2 ^ (shiftIn b w).wcnt := by
  have hb := Bool.toNat_lt b
  simp only [shiftIn, BitVec.toNat_ofNat, pow_succ]
  exact (Nat.mod_le _ _).trans_lt (by omega)

namespace OpenWriter

variable {size : Nat} {w : Writer}

theorem fresh (size : Nat) (base : Word) :
    OpenWriter size
      { wopen := true, wbase := base, wacc := 0, wcnt := 0, wbits := 0, wbytes := 0, outValid := false } :=
  ⟨rfl, rfl, Nat.zero_lt_succ 7, Nat.one_pos, Nat.zero_le size, rfl⟩

/-- A bit that does not fill the byte. -/
theorem shiftIn (h : OpenWriter size w) (b : Bool) (hcnt : w.wcnt ≠ 7) : OpenWriter size (shiftIn b w) := by
  have hlt := h.cnt_lt
  exact ⟨h.open_eq, h.valid_eq, show w.wcnt + 1 < 8 by omega, shiftIn_wacc_lt b h.acc_lt, h.bytes_le,
    congrArg (· + 1) h.bits_eq⟩

/-- The bit that fills the byte, and the byte written. -/
theorem byteFull (h : OpenWriter size w) (b : Bool) (hcnt : w.wcnt = 7) (hfits : w.wbytes + 1 ≤ size) :
    OpenWriter size { Machine.shiftIn b w with wbytes := w.wbytes + 1, wacc := 0, wcnt := 0 } := by
  have hbits := h.bits_eq
  exact ⟨h.open_eq, h.valid_eq, Nat.zero_lt_succ 7, Nat.one_pos, hfits,
    show w.wbits + 1 = 8 * (w.wbytes + 1) + 0 by omega⟩

/-- Released with the full byte that could not be written (40_stream.md R165). -/
theorem releaseFull (h : OpenWriter size w) (b : Bool) (hcnt : w.wcnt = 7) :
    ClosedWriter size { Machine.shiftIn b w with wopen := false, outValid := false } := by
  have hbits := h.bits_eq
  exact ⟨rfl, show w.wcnt + 1 ≤ 8 by omega, shiftIn_wacc_lt b h.acc_lt, h.bytes_le,
    show w.wbits + 1 ≤ 8 * w.wbytes + (w.wcnt + 1) by omega, fun hv => absurd hv Bool.false_ne_true⟩

/-- Closed as it is. -/
theorem release (h : OpenWriter size w) : ClosedWriter size { w with wopen := false, outValid := false } :=
  ⟨rfl, h.cnt_lt.le, h.acc_lt, h.bytes_le, h.bits_eq.le, fun hv => absurd hv Bool.false_ne_true⟩

/-- The partial byte flushed, and the writer closed (40_stream.md R166, R167). -/
theorem flush (h : OpenWriter size w) (valid : Bool) (hcnt : 0 < w.wcnt) (hfits : w.wbytes + 1 ≤ size) :
    ClosedWriter size
      { w with wbytes := w.wbytes + 1, wacc := 0, wcnt := 0, wopen := false, outValid := valid } := by
  have hlt := h.cnt_lt
  have hbits := h.bits_eq
  exact ⟨rfl, Nat.zero_le 8, Nat.one_pos, hfits, show w.wbits ≤ 8 * (w.wbytes + 1) + 0 by omega,
    fun _ => ⟨rfl, show w.wbytes + 1 = (w.wbits + 7) / 8 by omega⟩⟩

/-- Closed with nothing pending. -/
theorem close (h : OpenWriter size w) (valid : Bool) (hcnt : w.wcnt = 0) :
    ClosedWriter size { w with wacc := 0, wcnt := 0, wopen := false, outValid := valid } := by
  have hbits := h.bits_eq
  exact ⟨rfl, Nat.zero_le 8, Nat.one_pos, h.bytes_le, show w.wbits ≤ 8 * w.wbytes + 0 by omega,
    fun _ => ⟨rfl, show w.wbytes = (w.wbits + 7) / 8 by omega⟩⟩

end OpenWriter

/-! ### What the writer has written -/

theorem sameOutside_refl (m : Memory) (a n : Nat) : SameOutside m m a n := fun _ _ => rfl

/-- A write of the byte after the run makes the run one byte longer. -/
theorem SameOutside.write_next {m m' : Memory} {a n : Nat} (h : SameOutside m m' a n) (v : Byte) :
    SameOutside m (m'.write (a + n) v) a (n + 1) := by
  intro x hx
  rw [Memory.read_write_other m' (a + n) x v (by omega), h x (by omega)]

/-- An open writer at `base`; since `m` only the bytes it has written changed. -/
structure Writing (m : Memory) (base : Word) (s : State) : Prop where
  writer : OpenWriter s.cfg.memSize s.wr
  base_eq : s.wr.wbase = base
  same : SameOutside m s.mem base.toNat s.wr.wbytes

/-- A closed writer at `base`, its artifact valid or not; since `m` only the bytes it has written changed. -/
structure Written (valid : Bool) (m : Memory) (base : Word) (s : State) : Prop where
  writer : ClosedWriter s.cfg.memSize s.wr
  valid_eq : s.wr.outValid = valid
  base_eq : s.wr.wbase = base
  same : SameOutside m s.mem base.toNat s.wr.wbytes

theorem writing_wOpen (base : Word) (s : State) : Writing s.mem base (wOpen base s) :=
  ⟨OpenWriter.fresh _ base, rfl, sameOutside_refl _ _ _⟩

theorem wCloseOnError_cases (s : State) :
    (0 < s.wr.wcnt ∧ s.wbyteAddr + 1 ≤ s.cfg.memSize ∧
      wCloseOnError s = { s with
        mem := s.mem.write s.wbyteAddr (paddedByte s.wr)
        wr := { s.wr with wbytes := s.wr.wbytes + 1, wacc := 0, wcnt := 0, wopen := false } }) ∨
    ((s.wr.wcnt = 0 ∨ s.cfg.memSize < s.wbyteAddr + 1) ∧
      wCloseOnError s = { s with wr := { s.wr with wopen := false } }) := by
  unfold wCloseOnError
  split_ifs with h
  · exact .inl ⟨h.1, of_decide_eq_true h.2, rfl⟩
  · refine .inr ⟨?_, rfl⟩
    by_contra hneg
    exact h ⟨by omega, decide_eq_true (by omega)⟩

section
variable {m : Memory} {base : Word} {s : State} (op : Nat)

theorem Writing.wbyteAddr_eq (h : Writing m base s) : s.wbyteAddr = base.toNat + s.wr.wbytes := by
  rw [State.wbyteAddr, h.base_eq]

theorem Writing.write_next (h : Writing m base s) (v : Byte) :
    SameOutside m (s.mem.write s.wbyteAddr v) base.toNat (s.wr.wbytes + 1) :=
  h.wbyteAddr_eq ▸ h.same.write_next v

theorem Writing.fits_next (h : Writing m base s) (hfits : s.wbyteAddr + 1 ≤ s.cfg.memSize) :
    s.wr.wbytes + 1 ≤ s.cfg.memSize := by
  have haddr := h.wbyteAddr_eq
  omega

theorem writeBit_ends_writing (b : Bool) (h : Writing m base s) :
    (writeBit op b s).Ends (fun _ => Writing m base) (fun _ => Written false m base) := by
  rcases writeBit_cases op b s with ⟨hne, run⟩ | ⟨hfull, hfits, run⟩ | ⟨hfull, -, run⟩ <;> rw [run]
  · exact ⟨h.writer.shiftIn b hne, h.base_eq, h.same⟩
  · exact ⟨h.writer.byteFull b hfull (h.fits_next hfits), h.base_eq, h.write_next _⟩
  · exact ⟨h.writer.releaseFull b hfull, rfl, h.base_eq, h.same⟩

theorem wClose_ends_written (h : Writing m base s) :
    (wClose op s).Ends (fun _ => Written true m base) (fun _ => Written false m base) := by
  rcases wClose_cases op s with ⟨hzero, run⟩ | ⟨hpos, hfits, run⟩ | ⟨-, -, run⟩ <;> rw [run]
  · exact ⟨h.writer.close true hzero, rfl, h.base_eq, h.same⟩
  · exact ⟨h.writer.flush true hpos (h.fits_next hfits), rfl, h.base_eq, h.write_next _⟩
  · exact ⟨h.writer.release, rfl, h.base_eq, h.same⟩

theorem wCloseOnError_written (h : Writing m base s) : Written false m base (wCloseOnError s) := by
  have hvalid : { s.wr with wopen := false } = { s.wr with wopen := false, outValid := false } := by
    rw [← h.writer.valid_eq]
  rcases wCloseOnError_cases s with ⟨hpos, hfits, e⟩ | ⟨-, e⟩ <;> rw [e]
  · have flushed := h.writer.flush s.wr.outValid hpos (h.fits_next hfits)
    exact ⟨flushed, h.writer.valid_eq, h.base_eq, h.write_next _⟩
  · exact ⟨hvalid ▸ h.writer.release, h.writer.valid_eq, h.base_eq, h.same⟩

/-- COMPRESS's body: the writer is closed at OUT_ADDR whichever way it ends, and OUT_VALID tells the two apart. -/
theorem compressBody_ends_written (s : State) :
    (compressBody op s).Ends (fun _ => Written true s.mem s.outAddr) (fun _ => Written false s.mem s.outAddr) := by
  rw [compressBody_eq]
  have loop := encodeLoop_ends (op := op) (P := Writing s.mem s.outAddr) (Q := fun _ => Written false s.mem s.outAddr)
    (fun b t => writeBit_ends_writing op b) (fun _ _ t => wCloseOnError_written) (fun _ t => wCloseOnError_written)
    s.inCount 0 (writing_wOpen s.outAddr s)
  exact loop.bind fun _ t => wClose_ends_written op

end

end Sys2Proof.Machine
end

section
/-! The error records (60_exceptions.md R350, R351): what each command can raise. -/

namespace Sys2Proof.Machine

/-- The ERR_INFO values of a BUS that the command `i` raises (60_exceptions.md R351). -/
def busInfos : Instr → List Word
  | .analyze => [0x100#32]
  | .compress => [0x400#32, 0x401#32]
  | .decompress => [0x500#32, 0x501#32]
  | .wbit _ => [0x801#32]
  | .wclose => [0x901#32]
  | .rbit => [0xB00#32]
  | .nop | .buildtree | .buildtable | .clear | .wopen | .ropen | .rclose => []

/-- The commands that test a stream's open flag first. -/
def streamCommands : List Instr :=
  [Instr.compress, .decompress, .wopen, .wbit false, .wbit true, .wclose, .ropen, .rbit, .rclose]

/-- `e` is a BUS of the command `i`. -/
def IsBusOf (i : Instr) (e : Err) : Prop := e.code = .bus ∧ e.info ∈ busInfos i

/-- `e` is an error that the command `i` can raise (60_exceptions.md R350, R351). -/
def CanRaise (i : Instr) (e : Err) : Prop :=
  IsBusOf i e ∨ (e.code = .absent ∧ i = .compress) ∨ (e = streamErr (opcode i) ∧ i ∈ streamCommands) ∨
  (e = eosErr ∧ i = .rbit)

/-- A BUS carries the opcode of the command that raises it and the direction of the access. -/
theorem isBusOf_busErr {i : Instr} {d : Dir} (h : BitVec.ofNat 32 (opcode i <<< 8 ||| d.bit) ∈ busInfos i) (a : Nat) :
    IsBusOf i (busErr (opcode i) a d) := ⟨rfl, h⟩

theorem canRaise_stream {i : Instr} (hi : i ∈ streamCommands) : CanRaise i (streamErr (opcode i)) :=
  .inr (.inr (.inl ⟨rfl, hi⟩))

/-- The run raises nothing but errors that meet `E`. -/
def Run.Raises {α : Type} (E : Err → Prop) (r : Run α) : Prop := r.Ends (fun _ _ => True) (fun e _ => E e)

theorem Run.Raises.mono {α : Type} {E E' : Err → Prop} {r : Run α} (h : r.Raises E) (hE : ∀ e, E e → E' e) :
    r.Raises E' := Run.Ends.mono h (fun _ _ => id) (fun e _ => hE e)

theorem writeBit_raises {i : Instr} (hi : BitVec.ofNat 32 (opcode i <<< 8 ||| Dir.write.bit) ∈ busInfos i) (b : Bool)
    (s : State) : (writeBit (opcode i) b s).Raises (IsBusOf i) := by
  rcases writeBit_cases (opcode i) b s with ⟨-, run⟩ | ⟨-, -, run⟩ | ⟨-, -, run⟩ <;> rw [run]
  · trivial
  · trivial
  · exact isBusOf_busErr hi _

theorem wClose_raises {i : Instr} (hi : BitVec.ofNat 32 (opcode i <<< 8 ||| Dir.write.bit) ∈ busInfos i) (s : State) :
    (wClose (opcode i) s).Raises (IsBusOf i) := by
  rcases wClose_cases (opcode i) s with ⟨-, run⟩ | ⟨-, -, run⟩ | ⟨-, -, run⟩ <;> rw [run]
  · trivial
  · trivial
  · exact isBusOf_busErr hi _

theorem readBit_raises {i : Instr} (hi : BitVec.ofNat 32 (opcode i <<< 8 ||| Dir.read.bit) ∈ busInfos i) (s : State) :
    (readBit (opcode i) s).Raises (IsBusOf i) := by
  rcases readBit_cases (opcode i) s with ⟨-, run⟩ | ⟨-, -, run⟩ | ⟨-, -, run⟩ <;> rw [run]
  · trivial
  · trivial
  · exact isBusOf_busErr hi _

theorem emit_raises {i : Instr} (hi : BitVec.ofNat 32 (opcode i <<< 8 ||| Dir.write.bit) ∈ busInfos i) (x : Nat)
    (s : State) : (emit (opcode i) x s).Raises (IsBusOf i) := by
  rcases emit_cases (opcode i) x s with ⟨-, run⟩ | ⟨-, run⟩ <;> rw [run]
  · trivial
  · exact isBusOf_busErr hi _

theorem emitIfLeaf_raises {i : Instr} (hi : BitVec.ofNat 32 (opcode i <<< 8 ||| Dir.write.bit) ∈ busInfos i) (pos : Nat)
    (s : State) : (emitIfLeaf (opcode i) pos s).Raises (IsBusOf i) := by
  rw [emitIfLeaf_eq]
  split
  · exact (emit_raises hi _ s).bind fun _ _ _ => trivial
  · trivial

theorem finalEmit_raises {i : Instr} (hi : BitVec.ofNat 32 (opcode i <<< 8 ||| Dir.write.bit) ∈ busInfos i) (pos : Nat)
    (s : State) : (finalEmit (opcode i) pos s).Raises (IsBusOf i) := by
  unfold finalEmit
  split
  · exact emit_raises hi _ s
  · trivial

/-- COMPRESS on a free writer raises BUS or ABSENT (44_encode.md R272, R276). -/
theorem compressBody_raises (s : State) :
    (compressBody 0x4 s).Raises fun e => IsBusOf .compress e ∨ e.code = .absent := by
  have hwrite : BitVec.ofNat 32 (opcode .compress <<< 8 ||| Dir.write.bit) ∈ busInfos .compress := by decide
  have hread : BitVec.ofNat 32 (opcode .compress <<< 8 ||| Dir.read.bit) ∈ busInfos .compress := by decide
  have loop : (encodeLoop 0x4 s.inCount 0 (wOpen s.outAddr s)).Raises fun e => IsBusOf .compress e ∨ e.code = .absent :=
    encodeLoop_ends (P := fun _ => True) (Q := fun e _ => IsBusOf .compress e ∨ e.code = .absent)
      (fun b t _ => (writeBit_raises hwrite b t).mono fun _ => .inl) (fun _ _ _ _ => .inr rfl)
      (fun a _ _ => .inl (isBusOf_busErr hread a)) s.inCount 0 trivial
  rw [compressBody_eq]
  exact loop.bind fun _ t _ => (wClose_raises hwrite t).mono fun _ => .inl

/-- DECOMPRESS on a free reader raises BUS and nothing else (45_decode.md R309). -/
theorem decompressBody_raises (s : State) : (decompressBody 0x5 s).Raises (IsBusOf .decompress) := by
  have hwrite : BitVec.ofNat 32 (opcode .decompress <<< 8 ||| Dir.write.bit) ∈ busInfos .decompress := by decide
  have hread : BitVec.ofNat 32 (opcode .decompress <<< 8 ||| Dir.read.bit) ∈ busInfos .decompress := by decide
  by_cases htree : s.tree.kind = .empty
  · rw [decompressBody_of_empty 0x5 htree]
    trivial
  · rw [decompressBody_of_tree 0x5 s htree, decodeBody_eq]
    refine Run.Ends.bind (P := fun _ _ => True) ?loop fun pos t _ =>
      (finalEmit_raises hwrite pos t).bind fun _ _ _ => trivial
    exact (decodeLoop_ends (P := fun _ _ _ => True) (R := fun _ _ _ => True)
      (fun _ pos t _ _ => emitIfLeaf_raises hwrite pos t)
      (fun _ _ t _ => readBit_raises hread t) trivial).mono (fun _ _ _ => trivial) (fun _ _ => id)

theorem deliverBit_raises (s : State) : (deliverBit 0xB s).Raises (IsBusOf .rbit) := by
  rw [deliverBit_eq]
  exact (readBit_raises (i := .rbit) (by decide) s).bind fun _ _ _ => trivial

theorem countLoop_raises (s : State) :
    (countLoop 0x1 s.inCount 0 { s with hist := [] }).Raises (IsBusOf .analyze) :=
  countLoop_ends (P := fun _ => True) (Q := fun e _ => IsBusOf .analyze e) (fun _ _ _ _ => trivial)
    (fun a _ _ => isBusOf_busErr (i := .analyze) (by decide) a) s.inCount 0 trivial

/-- What each command can raise. -/
theorem body_raises (i : Instr) (s : State) : (body i s).Raises (CanRaise i) := by
  cases i with
  | nop | buildtree | buildtable | clear => trivial
  | analyze => exact (countLoop_raises s).mono fun _ => .inl
  | compress =>
    simp only [body]
    split
    · exact canRaise_stream (by decide)
    · refine (compressBody_raises s).mono fun e he => ?_
      rcases he with hbus | habsent
      · exact .inl hbus
      · exact .inr (.inl ⟨habsent, rfl⟩)
  | decompress =>
    simp only [body]
    split
    · exact canRaise_stream (by decide)
    · exact (decompressBody_raises s).mono fun _ => .inl
  | wopen | ropen =>
    simp only [body]
    split
    · exact canRaise_stream (by decide)
    · trivial
  | rclose =>
    simp only [body]
    split
    · trivial
    · exact canRaise_stream (by decide)
  | wbit b =>
    simp only [body]
    split
    · exact (writeBit_raises (i := .wbit b) (by simp [busInfos, opcode, Dir.bit]) b s).mono fun _ => .inl
    · exact canRaise_stream (by cases b <;> decide)
  | wclose =>
    simp only [body]
    split
    · exact (wClose_raises (i := .wclose) (by decide) s).mono fun _ => .inl
    · exact canRaise_stream (by decide)
  | rbit =>
    simp only [body]
    split
    · split
      · exact .inr (.inr (.inr ⟨rfl, rfl⟩))
      · exact (deliverBit_raises s).mono fun _ => .inl
    · exact canRaise_stream (by decide)

/-- A command either completes, its error flag and code as they were, or ends by an error that it can raise. -/
theorem exec_ending {i : Instr} {s t : State} (h : exec i s = .next t) :
    (∃ u, body i s = .ok () u ∧ t = complete u) ∨ ∃ e u, body i s = .raised e u ∧ CanRaise i e ∧ t = raiseErr e u := by
  have raises := body_raises i s
  rw [exec_eq_finish] at h
  cases run : body i s with
  | ok _ u => rw [run] at h; cases h; exact .inl ⟨u, rfl, rfl⟩
  | raised e u => rw [run] at h raises; cases h; exact .inr ⟨e, u, rfl, raises, rfl⟩

/-- No pseudocode touches the error record; only the raise does (60_exceptions.md R352). -/
theorem body_state_record (i : Instr) (s : State) :
    (body i s).state.err = s.err ∧ (body i s).state.errcode = s.errcode ∧ (body i s).state.errAddr = s.errAddr ∧
    (body i s).state.errInfo = s.errInfo ∧ (body i s).state.done = s.done ∧ (body i s).state.phase = s.phase := by
  have own := ownState_body i s
  generalize (body i s).state = u at own
  cases i with
  | nop | clear => cases own; exact ⟨rfl, rfl, rfl, rfl, rfl, rfl⟩
  | analyze | buildtree | buildtable | wopen | ropen | rbit | rclose =>
    obtain ⟨_, rfl⟩ := own
    exact ⟨rfl, rfl, rfl, rfl, rfl, rfl⟩
  | compress | wclose | wbit => obtain ⟨_, _, rfl⟩ := own; exact ⟨rfl, rfl, rfl, rfl, rfl, rfl⟩
  | decompress => obtain ⟨_, _, _, _, rfl⟩ := own; exact ⟨rfl, rfl, rfl, rfl, rfl, rfl⟩

/-- The BUS row of a command, in the words of the obligation. -/
theorem busInfo_cases {i : Instr} {w : Word} (h : w ∈ busInfos i) :
    (i = .analyze ∧ w = 0x100#32) ∨ (i = .compress ∧ (w = 0x400#32 ∨ w = 0x401#32)) ∨
    (i = .decompress ∧ (w = 0x500#32 ∨ w = 0x501#32)) ∨ ((i = .wbit false ∨ i = .wbit true) ∧ w = 0x801#32) ∨
    (i = .wclose ∧ w = 0x901#32) ∨ (i = .rbit ∧ w = 0xB00#32) := by
  cases i with
  | wbit b => cases b <;> simpa [busInfos] using h
  | analyze | compress | decompress | wclose | rbit => simpa [busInfos] using h
  | nop | buildtree | buildtable | clear | wopen | ropen | rclose => simp [busInfos] at h

/-- Settles O54: the record is untouched, or it is that of an error the command can raise. -/
theorem errorRecordsAreThoseOfTheTable : Obligations.ErrorRecordsAreThoseOfTheTable := by
  intro i s t herr hcode h
  rcases exec_ending h with ⟨u, run, rfl⟩ | ⟨e, u, -, he, rfl⟩
  · obtain ⟨huerr, hucode, -⟩ := run ▸ body_state_record i s
    have huerr : u.err = false := huerr.trans herr
    exact ⟨fun _ => hucode.trans hcode, fun hset => absurd (huerr.symm.trans hset) Bool.false_ne_true⟩
  · refine ⟨fun hclear => absurd hclear.symm Bool.false_ne_true, fun _ => ?_⟩
    rcases he with ⟨hbus, hinfo⟩ | ⟨habsent, hi⟩ | ⟨rfl, hi⟩ | ⟨rfl, hi⟩
    · exact .inl ⟨hbus, busInfo_cases hinfo⟩
    · exact .inr (.inl ⟨habsent, hi⟩)
    · exact .inr (.inr (.inl ⟨rfl, rfl, rfl, hi⟩))
    · exact .inr (.inr (.inr ⟨rfl, hi, rfl, rfl⟩))

/-- Settles O44: the body's ending says how the writer is left, and its frame what else there is. -/
theorem compressChangesOnlyItsArtifact : Obligations.CompressChangesOnlyItsArtifact := by
  intro s hclosed herr hcode
  have written := compressBody_ends_written 0x4 s
  have frame := compressBody_frame 0x4 s
  have raises := compressBody_raises s
  have run : exec .compress s = finish (compressBody 0x4 s) := if_neg (Bool.eq_false_iff.1 hclosed)
  rw [run]
  cases ending : compressBody 0x4 s with
  | ok _ u =>
    rw [ending] at written frame
    obtain ⟨writer, hvalid, hbase, hsame⟩ := written
    have frame : u = { s with wr := u.wr, mem := u.mem } := frame
    have huerr : u.err = false := (congrArg State.err frame).trans herr
    refine ⟨complete u, rfl, ?_, writer.open_eq, hbase, hsame, fun hset => ?_, fun _ => writer.valid hvalid, ?_⟩
    · rw [frame]; rfl
    · exact absurd (huerr.symm.trans hset) Bool.false_ne_true
    · exact hvalid.trans (by rw [complete_err, huerr]; rfl)
  | raised e u =>
    rw [ending] at written frame raises
    obtain ⟨writer, hvalid, hbase, hsame⟩ := written
    have frame : u = { s with wr := u.wr, mem := u.mem } := frame
    refine ⟨raiseErr e u, rfl, ?_, writer.open_eq, hbase, hsame, fun _ => ?_,
      fun hclear => absurd hclear.symm Bool.false_ne_true, hvalid⟩
    · rw [frame]; rfl
    · exact raises.imp And.left id

end Sys2Proof.Machine
end

section
/-! The decoder's invariant, whatever the regions (45_decode.md R301, R303, R309): the reader stays inside its artifact,
no byte outside the symbols written changes, and what has been emitted is counted against the bits consumed. -/

namespace Sys2Proof.Machine

/-- A write of the symbol after the run makes the run one symbol longer. -/
theorem SameOutside.writeLE_next {m m' : Memory} {a n sb : Nat} (h : SameOutside m m' a (n * sb)) (v : Nat) :
    SameOutside m (m'.writeLE (a + n * sb) sb v) a ((n + 1) * sb) := by
  intro x hx
  rw [Nat.add_mul, Nat.one_mul] at hx
  rw [Memory.read_writeLE_other m' _ sb v x (by omega), h x (by omega)]

/-- `u` is reached in the decoding that began in `s`: the reader is on the artifact and not past its end, DSTLEN counts
symbols that fit the memory, and only their bytes have changed. -/
structure Decoding (s u : State) : Prop where
  only : OnlyDecode s u
  rbase_eq : u.rd.rbase = s.srcAddr
  rlen_eq : u.rd.rlen = s.srcBits.toNat
  rpos_le : u.rd.rpos ≤ u.rd.rlen
  fits : u.dstLen * s.cfg.sb ≤ s.cfg.memSize
  same : SameOutside s.mem u.mem s.dstAddr.toNat (u.dstLen * s.cfg.sb)

theorem hasMore_iff (s : State) : s.hasMore = true ↔ s.rd.ropen = true ∧ s.rd.rpos < s.rd.rlen := by
  simp [State.hasMore]

theorem decoding_rOpen {s : State} (hempty : s.dstLen = 0) : Decoding s (rOpen s.srcAddr s.srcBits.toNat s) := by
  have hnone : (rOpen s.srcAddr s.srcBits.toNat s).dstLen * s.cfg.sb = 0 := by rw [rOpen_dstLen, hempty, Nat.zero_mul]
  exact ⟨rfl, rfl, rfl, Nat.zero_le _, hnone ▸ Nat.zero_le _, sameOutside_refl _ _ _⟩

namespace Decoding

variable {s u : State}

theorem cfg_eq (h : Decoding s u) : u.cfg = s.cfg := by rw [h.only]

theorem tree_eq (h : Decoding s u) : u.tree = s.tree := by rw [h.only]

theorem outSymAddr_eq (h : Decoding s u) (k : Nat) : u.outSymAddr k = s.dstAddr.toNat + k * s.cfg.sb := by
  rw [State.outSymAddr, h.cfg_eq, congrArg State.dstAddr h.only]

theorem rbyteAddr_eq (h : Decoding s u) : u.rbyteAddr = s.srcAddr.toNat + u.rd.rpos / 8 := by
  rw [State.rbyteAddr, h.rbase_eq]

/-- A change of the reader that keeps its artifact and its end. -/
theorem with_reader (h : Decoding s u) {r : Reader} (hbase : r.rbase = u.rd.rbase) (hlen : r.rlen = u.rd.rlen)
    (hpos : r.rpos ≤ u.rd.rlen) : Decoding s { u with rd := r } :=
  ⟨h.only.trans rfl, hbase.trans h.rbase_eq, hlen.trans h.rlen_eq, hlen ▸ hpos, h.fits, h.same⟩

theorem closeReader (h : Decoding s u) : Decoding s (closeReader u) := h.with_reader rfl rfl h.rpos_le

/-- ReadBit before the end: one bit further, or BUS at the byte that does not exist, with the reader closed. -/
theorem readBit_ends (op : Nat) (h : Decoding s u) (hmore : u.rd.rpos < u.rd.rlen) :
    (readBit op u).Ends
      (fun _ v => Decoding s v ∧ v.rd.ropen = u.rd.ropen ∧ v.rd.rpos = u.rd.rpos + 1 ∧ v.dstLen = u.dstLen)
      (fun e v => v = Machine.closeReader u ∧ e = busErr op (s.srcAddr.toNat + u.rd.rpos / 8) .read ∧
        s.cfg.memSize < s.srcAddr.toNat + u.rd.rpos / 8 + 1) := by
  rcases readBit_cases op u with ⟨-, run⟩ | ⟨-, -, run⟩ | ⟨-, hbeyond, run⟩ <;> rw [run]
  · exact ⟨h.with_reader rfl rfl hmore, rfl, rfl, rfl⟩
  · exact ⟨h.with_reader rfl rfl hmore, rfl, rfl, rfl⟩
  · rw [h.rbyteAddr_eq, h.cfg_eq] at hbeyond
    exact ⟨rfl, by rw [h.rbyteAddr_eq], hbeyond⟩

/-- Emit: one symbol more, or BUS at the symbol that does not exist, with the reader closed. -/
theorem emit_ends (op x : Nat) (h : Decoding s u) :
    (emit op x u).Ends
      (fun _ v => Decoding s v ∧ v.rd = u.rd ∧ v.dstLen = u.dstLen + 1)
      (fun e v => v = Machine.closeReader u ∧ e = busErr op (s.dstAddr.toNat + u.dstLen * s.cfg.sb) .write ∧
        s.cfg.memSize < s.dstAddr.toNat + u.dstLen * s.cfg.sb + s.cfg.sb) := by
  have haddr := h.outSymAddr_eq u.dstLen
  rcases emit_cases op x u with ⟨hfits, run⟩ | ⟨hbeyond, run⟩ <;> rw [run]
  · rw [haddr, h.cfg_eq] at hfits
    have hsize : (u.dstLen + 1) * s.cfg.sb ≤ s.cfg.memSize := by rw [Nat.add_mul, Nat.one_mul]; omega
    refine ⟨⟨h.only.trans rfl, h.rbase_eq, h.rlen_eq, h.rpos_le, hsize, ?_⟩, rfl, rfl⟩
    rw [haddr, h.cfg_eq]
    exact h.same.writeLE_next x
  · rw [haddr, h.cfg_eq] at hbeyond
    exact ⟨rfl, by rw [haddr], hbeyond⟩

end Decoding

/-! ### The record of a failed access -/

/-- DECOMPRESS's only error: BUS on the read of the byte at RBASE + RPOS div 8 or on the write of symbol DSTLEN, that
byte or symbol not existing (45_decode.md R309). -/
def DecodeBus (s : State) (e : Err) (u : State) : Prop :=
  (e = busErr 0x5 (s.srcAddr.toNat + u.rd.rpos / 8) .read ∧ s.cfg.memSize < s.srcAddr.toNat + u.rd.rpos / 8 + 1) ∨
  (e = busErr 0x5 (s.dstAddr.toNat + u.dstLen * s.cfg.sb) .write ∧
    s.cfg.memSize < s.dstAddr.toNat + u.dstLen * s.cfg.sb + s.cfg.sb)

/-- How a decoding raises: the reader closed, no more symbols than bits. -/
structure DecodeFailed (s : State) (e : Err) (u : State) : Prop where
  decoding : Decoding s u
  closed : u.rd.ropen = false
  count : u.dstLen ≤ s.srcBits.toNat
  bus : DecodeBus s e u

/-! ### Symbols against bits -/

/-- Before a pass at position `pos`: a NORMAL tree has used a bit for each symbol, the one still to be emitted included;
the one-leaf tree has emitted one symbol a bit and its position is ROOT (45_decode.md R302, R304, R306). -/
def EmittedBefore (s : State) (pos : Nat) (u : State) : Prop :=
  (s.tree.kind = .normal ∧ u.dstLen + (s.nodeAt pos).leaf.toNat ≤ u.rd.rpos) ∨
  (s.tree.kind = .degen ∧ pos = s.tree.root ∧ u.dstLen = u.rd.rpos)

/-- Between the emission and the read of the bit. -/
def EmittedAfter (s : State) (pos : Nat) (u : State) : Prop :=
  (s.tree.kind = .normal ∧ u.dstLen ≤ u.rd.rpos) ∨
  (s.tree.kind = .degen ∧ pos = s.tree.root ∧ u.dstLen = u.rd.rpos + 1)

/-- The loop's invariant before a pass, `n` passes left. -/
structure BeforePass (s : State) (n pos : Nat) (u : State) : Prop where
  decoding : Decoding s u
  isOpen : u.rd.ropen = true
  passes : s.srcBits.toNat ≤ u.rd.rpos + n
  emitted : EmittedBefore s pos u

/-- The loop's invariant between the emission and the read of the bit, `n` passes left after this one. -/
structure BeforeBit (s : State) (n pos : Nat) (u : State) : Prop where
  decoding : Decoding s u
  isOpen : u.rd.ropen = true
  more : u.rd.rpos < u.rd.rlen
  passes : s.srcBits.toNat ≤ u.rd.rpos + (n + 1)
  emitted : EmittedAfter s pos u

section
variable {s u : State} {n pos : Nat}

theorem EmittedBefore.le_rpos (h : EmittedBefore s pos u) : u.dstLen ≤ u.rd.rpos := by
  rcases h with ⟨-, h⟩ | ⟨-, -, h⟩ <;> omega

theorem BeforePass.count_le (h : BeforePass s n pos u) : u.dstLen ≤ s.srcBits.toNat :=
  h.decoding.rlen_eq ▸ h.emitted.le_rpos.trans h.decoding.rpos_le

theorem BeforePass.write_failed (h : BeforePass s n pos u)
    (hbeyond : s.cfg.memSize < s.dstAddr.toNat + u.dstLen * s.cfg.sb + s.cfg.sb) :
    DecodeFailed s (busErr 0x5 (s.dstAddr.toNat + u.dstLen * s.cfg.sb) .write) (closeReader u) :=
  ⟨h.decoding.closeReader, rfl, h.count_le, .inr ⟨rfl, hbeyond⟩⟩

theorem BeforePass.nodeAt_eq (h : BeforePass s n pos u) (i : Nat) : u.nodeAt i = s.nodeAt i := by
  rw [State.nodeAt, State.nodeAt, h.decoding.tree_eq]

/-- The emission before a bit. Its premise on the one-leaf tree: ROOT is a leaf. -/
theorem BeforePass.emitIfLeaf_ends (h : BeforePass s (n + 1) pos u) (hmore : u.hasMore = true)
    (hleaf : s.tree.kind = .degen → (s.nodeAt s.tree.root).leaf = true) :
    (emitIfLeaf 0x5 pos u).Ends (BeforeBit s n) (DecodeFailed s) := by
  obtain ⟨-, hmore⟩ := (hasMore_iff u).1 hmore
  rw [emitIfLeaf_eq, h.nodeAt_eq]
  split
  · next hpos =>
    refine ((h.decoding.emit_ends 0x5 _).mono (fun _ v hv => ?_) (fun e v hv => ?_)).bind
      (P := fun _ v => BeforeBit s n s.tree.root v) fun _ v hv => ?_
    · obtain ⟨hdec, hrd, hlen⟩ := hv
      refine ⟨hdec, hrd ▸ h.isOpen, hrd ▸ hmore, hrd ▸ h.passes, ?_⟩
      rcases h.emitted with ⟨hkind, hcount⟩ | ⟨hkind, -, hcount⟩
      · rw [hpos] at hcount
        exact .inl ⟨hkind, by rw [hlen, hrd]; exact hcount⟩
      · exact .inr ⟨hkind, rfl, by rw [hlen, hrd, hcount]⟩
    · obtain ⟨rfl, rfl, hbeyond⟩ := hv
      exact h.write_failed hbeyond
    · rw [hv.decoding.tree_eq]
      exact hv
  · next hpos =>
    refine ⟨h.decoding, h.isOpen, hmore, h.passes, ?_⟩
    rcases h.emitted with ⟨hkind, hcount⟩ | ⟨hkind, hroot, hcount⟩
    · exact .inl ⟨hkind, (Nat.le_add_right _ _).trans hcount⟩
    · exact absurd (hroot ▸ hleaf hkind) hpos

theorem BeforeBit.readBit_ends (h : BeforeBit s n pos u) :
    (readBit 0x5 u).Ends (fun b v => BeforePass s n (walkBit b pos v) v) (DecodeFailed s) := by
  refine (h.decoding.readBit_ends 0x5 h.more).mono (fun b v hv => ?_) (fun e v hv => ?_)
  · obtain ⟨hdec, hopen, hpos, hlen⟩ := hv
    refine ⟨hdec, hopen.trans h.isOpen, by rw [hpos, Nat.add_assoc, Nat.add_comm 1 n]; exact h.passes, ?_⟩
    rcases h.emitted with ⟨hkind, hcount⟩ | ⟨hkind, hroot, hcount⟩
    · have hbit := Bool.toNat_lt (s.nodeAt (walkBit b pos v)).leaf
      exact .inl ⟨hkind, by omega⟩
    · have hstay : walkBit b pos v = pos := by simp only [walkBit, hdec.tree_eq, hkind]
      exact .inr ⟨hkind, hstay.trans hroot, by omega⟩
  · obtain ⟨rfl, rfl, hbeyond⟩ := hv
    have hend := h.decoding.rlen_eq
    refine ⟨h.decoding.closeReader, rfl, ?_, .inl ⟨rfl, hbeyond⟩⟩
    have hmore := h.more
    show u.dstLen ≤ s.srcBits.toNat
    rcases h.emitted with ⟨-, hcount⟩ | ⟨-, -, hcount⟩ <;> omega

/-- A pass that goes on after the last bit. -/
theorem BeforePass.finalEmit_ends (h : BeforePass s n pos u) (hend : n = 0 ∨ u.hasMore = false) :
    (finalEmit 0x5 pos u).Ends
      (fun _ v => Decoding s v ∧ v.dstLen ≤ s.srcBits.toNat ∧ (s.tree.kind = .degen → v.dstLen = s.srcBits.toNat))
      (DecodeFailed s) := by
  have hall : u.rd.rpos = s.srcBits.toNat := by
    have hpasses := h.passes
    have hle := h.decoding.rpos_le
    rw [h.decoding.rlen_eq] at hle
    rcases hend with rfl | hnone
    · omega
    · have : ¬ u.rd.rpos < u.rd.rlen := fun hlt => by
        rw [(hasMore_iff u).2 ⟨h.isOpen, hlt⟩] at hnone
        cases hnone
      rw [h.decoding.rlen_eq] at this
      omega
  unfold finalEmit
  rw [h.nodeAt_eq, h.decoding.tree_eq]
  split
  · next hleaf =>
    obtain ⟨hnormal, hpos⟩ := hleaf
    refine (h.decoding.emit_ends 0x5 _).mono (fun _ v hv => ?_) (fun e v hv => ?_)
    · obtain ⟨hdec, -, hlen⟩ := hv
      refine ⟨hdec, ?_, fun hdegen => absurd (hnormal.symm.trans hdegen) (by decide)⟩
      rcases h.emitted with ⟨-, hcount⟩ | ⟨hdegen, -, -⟩
      · rw [hpos, Bool.toNat_true] at hcount
        omega
      · exact absurd (hnormal.symm.trans hdegen) (by decide)
    · obtain ⟨rfl, rfl, hbeyond⟩ := hv
      exact h.write_failed hbeyond
  · refine ⟨h.decoding, h.count_le, fun hdegen => ?_⟩
    rcases h.emitted with ⟨hnormal, -⟩ | ⟨-, -, hcount⟩
    · exact absurd (hnormal.symm.trans hdegen) (by decide)
    · exact hcount.trans hall

end

/-- How decoding with a tree ends (45_decode.md R301, R303, R309). -/
theorem decodeBody_ends {s : State} (hstart : s.dstLen = 0) (htree : s.tree.kind ≠ .empty)
    (hnormal : s.tree.kind = .normal → (s.nodeAt s.tree.root).leaf = false)
    (hdegen : s.tree.kind = .degen → (s.nodeAt s.tree.root).leaf = true) :
    (decodeBody 0x5 s).Ends
      (fun _ v => ∃ u, v = closeDecoder u ∧ Decoding s u ∧ u.dstLen ≤ s.srcBits.toNat ∧
        (s.tree.kind = .degen → u.dstLen = s.srcBits.toNat))
      (DecodeFailed s) := by
  have start : BeforePass s s.srcBits.toNat s.tree.root (rOpen s.srcAddr s.srcBits.toNat s) := by
    refine ⟨decoding_rOpen hstart, rfl, Nat.le_add_left _ _, ?_⟩
    cases hkind : s.tree.kind with
    | empty => exact absurd hkind htree
    | normal => exact .inl ⟨hkind, by rw [rOpen_dstLen, hstart, hnormal hkind]; exact Nat.zero_le _⟩
    | degen => exact .inr ⟨hkind, rfl, hstart⟩
  rw [decodeBody_eq]
  refine (decodeLoop_ends (fun n pos u hu hmore => hu.emitIfLeaf_ends hmore hdegen) (fun n pos u hu => hu.readBit_ends)
    start).bind fun pos u ⟨n, hu, hend⟩ => (hu.finalEmit_ends hend).bind fun _ v hv => ⟨v, rfl, hv⟩

/-- ROOT is a leaf exactly in the one-leaf tree (42_tree.md R226). -/
theorem root_leaf {c : Config} {t : Tree} (h : TreeShape c t) :
    (t.kind = .normal → (nodeAt t.node t.root).leaf = false) ∧
    (t.kind = .degen → (nodeAt t.node t.root).leaf = true) := by
  obtain ⟨⟨-, hdegen, hnormal⟩, -, hleaf, -, hinternal, -⟩ := h
  refine ⟨fun hkind => ?_, fun hkind => ?_⟩
  · have regs := hnormal hkind
    obtain ⟨hnot, -⟩ := hinternal t.root (by omega) (by omega)
    exact hnot
  · have regs := hdegen hkind
    obtain ⟨his, -⟩ := hleaf t.root (by omega)
    exact his

/-- Settles O47: the ending of the body, read through completion or the raise. -/
theorem decompressFrameAndBusErrors : Obligations.DecompressFrameAndBusErrors := by
  intro s hclosed herr hcode ⟨_, _, hshape⟩ htree
  obtain ⟨hnormal, hdegen⟩ := root_leaf hshape
  have ends := decodeBody_ends (s := { s with dstValid := false, dstLen := 0 }) rfl htree hnormal hdegen
  rw [exec_decompress_of_closed hclosed, decompressBody_of_tree 0x5 s htree]
  cases ending : decodeBody 0x5 { s with dstValid := false, dstLen := 0 } with
  | ok _ v =>
    rw [ending] at ends
    obtain ⟨u, rfl, hdec, hcount, hall⟩ := ends
    have huerr : u.err = false := (congrArg State.err hdec.only).trans herr
    refine ⟨complete (closeDecoder u), rfl, ?_, rfl, hdec.rbase_eq, hdec.rlen_eq, hcount, hdec.same, ?_,
      fun _ => hall, fun hset => absurd (huerr.symm.trans hset) Bool.false_ne_true⟩
    · rw [hdec.only]; rfl
    · rw [complete_err, closeDecoder_err, huerr]; rfl
  | raised e u =>
    rw [ending] at ends
    obtain ⟨hdec, hropen, hcount, hbus⟩ := ends
    refine ⟨raiseErr e u, rfl, ?_, hropen, hdec.rbase_eq, hdec.rlen_eq, hcount, hdec.same, ?_,
      fun hclear => absurd hclear.symm Bool.false_ne_true, fun _ => ?_⟩
    · rw [hdec.only]; rfl
    · rw [raiseErr_dstValid, hdec.only]; rfl
    · rcases hbus with ⟨rfl, hbeyond⟩ | ⟨rfl, hbeyond⟩
      · exact ⟨rfl, .inl ⟨rfl, rfl, hbeyond⟩⟩
      · exact ⟨rfl, .inr ⟨rfl, rfl, hbeyond⟩⟩

end Sys2Proof.Machine
end

section
/-! What every step keeps: the data memory canonical and inside MEM_SIZE (20_memory.md R100), the streams' counters
(10_state.md R65, R66), the error record, HIST and the selectors (R36 to R38, R47, R56 to R58, R61). And what a command
may write, through its end and through a reset that abandons it (20_memory.md R120, 70_reset_and_hazards.md R403). -/

namespace Sys2Proof.Machine

/-! ### The data memory through a command -/

theorem memInv_write {s : State} (h : MemInv s) {a : Nat} (ha : a < s.cfg.memSize) (v : Byte) :
    MemInv { s with mem := s.mem.write a v } :=
  ⟨Memory.wf_write s.mem a v h.1, Memory.below_write s.mem _ a v h.2 ha⟩

section
variable (op : Nat) {s : State}

theorem writeBit_ends_memInv (b : Bool) (h : MemInv s) :
    (writeBit op b s).Ends (fun _ => MemInv) (fun _ => MemInv) := by
  rcases writeBit_cases op b s with ⟨-, run⟩ | ⟨-, hfits, run⟩ | ⟨-, -, run⟩ <;> rw [run]
  · exact h
  · exact memInv_write h hfits _
  · exact h

theorem wClose_ends_memInv (h : MemInv s) : (wClose op s).Ends (fun _ => MemInv) (fun _ => MemInv) := by
  rcases wClose_cases op s with ⟨-, run⟩ | ⟨-, hfits, run⟩ | ⟨-, -, run⟩ <;> rw [run]
  · exact h
  · exact memInv_write h hfits _
  · exact h

theorem wCloseOnError_memInv (h : MemInv s) : MemInv (wCloseOnError s) := by
  rcases wCloseOnError_cases s with ⟨-, hfits, e⟩ | ⟨-, e⟩ <;> rw [e]
  · exact memInv_write h hfits _
  · exact h

theorem compressBody_ends_memInv (h : MemInv s) : (compressBody op s).Ends (fun _ => MemInv) (fun _ => MemInv) := by
  rw [compressBody_eq]
  exact (encodeLoop_ends (P := MemInv) (Q := fun _ => MemInv) (fun b _ => writeBit_ends_memInv op b)
    (fun _ _ _ => wCloseOnError_memInv) (fun _ _ => wCloseOnError_memInv) s.inCount 0 (s := wOpen s.outAddr s) h).bind
    fun _ t => wClose_ends_memInv op

theorem readBit_ends_memInv (h : MemInv s) : (readBit op s).Ends (fun _ => MemInv) (fun _ => MemInv) := by
  rcases readBit_cases op s with ⟨-, run⟩ | ⟨-, -, run⟩ | ⟨-, -, run⟩ <;> rw [run] <;> exact h

theorem emit_ends_memInv (x : Nat) (h : MemInv s) : (emit op x s).Ends (fun _ => MemInv) (fun _ => MemInv) := by
  rcases emit_cases op x s with ⟨hfits, run⟩ | ⟨-, run⟩ <;> rw [run]
  · exact ⟨Memory.wf_writeLE _ _ _ _ h.1, Memory.below_writeLE _ _ _ _ _ h.2 hfits⟩
  · exact h

theorem emitIfLeaf_ends_memInv (pos : Nat) (h : MemInv s) :
    (emitIfLeaf op pos s).Ends (fun _ => MemInv) (fun _ => MemInv) := by
  rw [emitIfLeaf_eq]
  split
  · exact (emit_ends_memInv op _ h).bind fun _ _ ht => ht
  · exact h

theorem finalEmit_ends_memInv (pos : Nat) (h : MemInv s) :
    (finalEmit op pos s).Ends (fun _ => MemInv) (fun _ => MemInv) := by
  unfold finalEmit
  split
  · exact emit_ends_memInv op _ h
  · exact h

theorem decompressBody_ends_memInv (h : MemInv s) : (decompressBody op s).Ends (fun _ => MemInv) (fun _ => MemInv) := by
  by_cases htree : s.tree.kind = .empty
  · rw [decompressBody_of_empty op htree]
    exact h
  · rw [decompressBody_of_tree op s htree, decodeBody_eq]
    refine (decodeLoop_ends (P := fun _ _ => MemInv) (R := fun _ _ => MemInv)
      (fun _ pos _ ht _ => emitIfLeaf_ends_memInv op pos ht) (fun _ _ _ ht => readBit_ends_memInv op ht) ?_).bind
      fun pos t ⟨_, ht, _⟩ => Run.Ends.bind (P := fun _ => MemInv) (finalEmit_ends_memInv op pos ht) fun _ u hu => ?_
    · exact h
    · exact hu

end

/-- Every byte a command writes exists. -/
theorem memInv_body (i : Instr) {s : State} (h : MemInv s) : MemInv (body i s).state := by
  have own := ownState_body i s
  cases i with
  | nop | clear => rw [own]; exact h
  | analyze | buildtree | buildtable | wopen | ropen | rbit | rclose =>
    obtain ⟨_, e⟩ := own
    rw [e]
    exact h
  | compress =>
    simp only [body]
    split
    · exact h
    · exact (compressBody_ends_memInv 0x4 h).state
  | decompress =>
    simp only [body]
    split
    · exact h
    · exact (decompressBody_ends_memInv 0x5 h).state
  | wbit b =>
    simp only [body]
    split
    · exact (writeBit_ends_memInv 0x8 b h).state
    · exact h
  | wclose =>
    simp only [body]
    split
    · exact (wClose_ends_memInv 0x9 h).state
    · exact h

theorem memInv_exec {i : Instr} {s t : State} (hinv : MemInv s) (h : exec i s = .next t) : MemInv t := by
  obtain ⟨_, _, _, _, rfl⟩ := ended_of_exec h
  exact memInv_body i hinv

theorem cfg_of_exec {i : Instr} {s t : State} (h : exec i s = .next t) : t.cfg = s.cfg := by
  have hcfg := congrArg State.cfg (eachCommandWritesOnlyItsOwnState i s t h).1
  exact hcfg

/-! ### The data memory through a reset -/

/-- What a memory below `n` holds at any address may be written there: beyond `n` that is the unlisted value. -/
theorem Memory.below_write_read {m new : Memory} {n : Nat} (h : Sparse.below n m) (hnew : Sparse.below n new)
    (a : Nat) :
    Sparse.below n (m.write a (new.read a)) := by
  intro e he
  rcases Sparse.mem_set _ m a _ e he with hold | ⟨rfl, hlisted⟩
  · exact h e hold
  · exact hnew _ (Sparse.mem_of_get_ne _ new a hlisted)

theorem Memory.below_mixBytes (pick : Nat → Bool) {new : Memory} {k : Nat} (hnew : Sparse.below k new) (n a : Nat)
    {m : Memory} (h : Sparse.below k m) : Sparse.below k (mixBytes pick new n a m) := by
  induction n generalizing a m with
  | zero => exact h
  | succ n ih =>
    rw [mixBytes]
    refine ih (a + 1) ?_
    split
    · exact Memory.below_write_read h hnew a
    · exact h

/-- The bytes of one span of an abandoned command (70_reset_and_hazards.md R403). -/
def mixSpan (pick : Nat → Bool) (new m : Memory) (p : Span) : Memory :=
  match p.dir with
  | .write => mixBytes pick new p.len p.base m
  | .read => m

theorem abandonedMem_eq (c : Word) (s : State) :
    abandonedMem c s =
      match decode c with
      | .error _ => s.mem
      | .ok i => (footprint i s).foldl (mixSpan (Config.abandonedByteWritten s.freeCtr) (afterExec i s).mem) s.mem := by
  rw [abandonedMem]
  cases decode c <;> rfl

theorem memInv_mixSpans {pick : Nat → Bool} {new : Memory} {n : Nat} (hnew : Sparse.below n new) (ps : List Span)
    {m : Memory} (hwf : Memory.wf m) (hbelow : Sparse.below n m) :
    Memory.wf (ps.foldl (mixSpan pick new) m) ∧ Sparse.below n (ps.foldl (mixSpan pick new) m) := by
  induction ps generalizing m with
  | nil => exact ⟨hwf, hbelow⟩
  | cons p ps ih =>
    rw [List.foldl_cons]
    cases hdir : p.dir with
    | read => simp only [mixSpan, hdir]; exact ih hwf hbelow
    | write =>
      simp only [mixSpan, hdir]
      exact ih (Memory.wf_mixBytes _ _ _ _ _ hwf) (Memory.below_mixBytes pick hnew _ _ hbelow)

theorem memAtReset_of_running {s : State} {c : Word} (hrun : s.phase = .running c) :
    memAtReset s = abandonedMem c s := by
  simp only [memAtReset, hrun]

theorem memAtReset_of_ok {s : State} {c : Word} {i : Instr} (hrun : s.phase = .running c) (hdec : decode c = .ok i) :
    memAtReset s =
      (footprint i s).foldl (mixSpan (Config.abandonedByteWritten s.freeCtr) (afterExec i s).mem) s.mem := by
  rw [memAtReset_of_running hrun, abandonedMem_eq, hdec]

theorem memAtReset_of_none {s : State} (h : ∀ c i, s.phase = .running c → decode c ≠ .ok i) : memAtReset s = s.mem := by
  cases hp : s.phase with
  | running c =>
    rw [memAtReset_of_running hp, abandonedMem_eq]
    cases hdec : decode c with
    | error e => rfl
    | ok i => exact absurd hdec (h c i hp)
  | idle => simp only [memAtReset, hp]
  | resetting => simp only [memAtReset, hp]

/-- Either no command is abandoned or one is. -/
theorem abandoned_or_not (s : State) :
    (∀ c i, s.phase = .running c → decode c ≠ .ok i) ∨ ∃ c i, s.phase = .running c ∧ decode c = .ok i := by
  by_contra hneither
  push Not at hneither
  obtain ⟨⟨c, i, hrun, hdec⟩, hnone⟩ := hneither
  exact hnone c i hrun hdec

theorem memInv_assertReset {s : State} (h : MemInv s) : MemInv (assertReset s) := by
  suffices hmem : Memory.wf (memAtReset s) ∧ Sparse.below s.cfg.memSize (memAtReset s) from hmem
  rcases abandoned_or_not s with hnone | ⟨c, i, hrun, hdec⟩
  · rw [memAtReset_of_none hnone]
    exact h
  · have after := memInv_exec h (exec_eq_afterExec i s)
    have hcfg := cfg_of_exec (exec_eq_afterExec i s)
    rw [memAtReset_of_ok hrun hdec]
    exact memInv_mixSpans (hcfg ▸ after.2) _ h.1 h.2

/-- Settles O55: HOST, the commands and a reset write bytes that exist, and every write keeps the canonical form. -/
theorem memoryStaysCanonical : Obligations.MemoryStaysCanonical := by
  intro s t hinv h
  refine step_keeps (P := MemInv) ?_ (fun r v s hs => ?write) (fun a v s ha hs => memInv_write hs ha v)
    (fun s => memInv_assertReset) (fun c s hs => hs) (fun s hs => hs) (fun i s t _ hs hexe => memInv_exec hs hexe)
      hinv h
  · rintro s _ ⟨_, _, rfl⟩ hs
    exact hs
  case write =>
    obtain ⟨hcfg, hmem, -⟩ := writeReg_frame r v s
    rw [MemInv, hcfg, hmem]
    exact hs

/-- After a mix of the spans a byte is the old one, or the new one inside a span that is written. -/
theorem read_mixSpans (pick : Nat → Bool) (new : Memory) (ps : List Span) {m : Memory} (hwf : Memory.wf m) (a : Nat) :
    (ps.foldl (mixSpan pick new) m).read a = m.read a ∨
    ((∃ p ∈ ps, p.dir = .write ∧ p.base ≤ a ∧ a < p.base + p.len) ∧
      (ps.foldl (mixSpan pick new) m).read a = new.read a) := by
  induction ps generalizing m with
  | nil => exact .inl rfl
  | cons p ps ih =>
    have later {m' : Memory} (hwf' : Memory.wf m') :
        (ps.foldl (mixSpan pick new) m').read a = m'.read a ∨
        ((∃ q ∈ p :: ps, q.dir = .write ∧ q.base ≤ a ∧ a < q.base + q.len) ∧
          (ps.foldl (mixSpan pick new) m').read a = new.read a) := by
      rcases ih hwf' with hold | ⟨⟨q, hq, hspan⟩, hread⟩
      · exact .inl hold
      · exact .inr ⟨⟨q, List.mem_cons_of_mem p hq, hspan⟩, hread⟩
    rw [List.foldl_cons]
    cases hdir : p.dir with
    | read => simp only [mixSpan, hdir]; exact later hwf
    | write =>
      simp only [mixSpan, hdir]
      rcases later (Memory.wf_mixBytes pick new p.len p.base m hwf) with hold | hnew
      · rcases Memory.read_mixBytes pick new p.len p.base m hwf a with hkept | ⟨hle, hlt, htaken⟩
        · exact .inl (hold.trans hkept)
        · exact .inr ⟨⟨p, List.mem_cons_self, hdir, hle, hlt⟩, hold.trans htaken⟩
      · exact .inr hnew

/-- Settles O24: the registers take their reset values, and the memory is the mix of the footprint's bytes. -/
theorem resetAbandonsTheRunningCommand : Obligations.ResetAbandonsTheRunningCommand := by
  refine fun s hwf => ⟨⟨memAtReset s, rfl⟩, fun c i hrun hdec a => ?_, fun hnone => memAtReset_of_none hnone⟩
  have hmem : (assertReset s).mem = _ := memAtReset_of_ok hrun hdec
  rw [hmem]
  rcases read_mixSpans (Config.abandonedByteWritten s.freeCtr) (afterExec i s).mem (footprint i s) hwf a with
    hold | ⟨hspan, hnew⟩
  · exact .inl hold
  · exact .inr ⟨hspan, afterExec i s, exec_eq_afterExec i s, hnew⟩

/-! ### What a command writes -/

/-- A command that writes no byte of the data memory leaves it as it is. -/
theorem mem_of_exec {i : Instr} {s t : State} (h : exec i s = .next t)
    (hi : i ≠ .compress ∧ i ≠ .decompress ∧ i ≠ .wbit true ∧ i ≠ .wbit false ∧ i ≠ .wclose) : t.mem = s.mem := by
  obtain ⟨-, -, -, -, -, -, -, hmem⟩ := eachCommandWritesOnlyItsOwnState i s t h
  obtain ⟨hcompress, hdecompress, hbit1, hbit0, hclose⟩ := hi
  exact hmem hcompress hdecompress hbit1 hbit0 hclose

theorem sameOutside_exec_compress {s t : State} (hclosed : s.wr.wopen = false) (h : exec .compress s = .next t) :
    SameOutside s.mem t.mem s.outAddr.toNat t.wr.wbytes := by
  have written := compressBody_ends_written 0x4 s
  have run : exec .compress s = finish (compressBody 0x4 s) := if_neg (Bool.eq_false_iff.1 hclosed)
  rw [run] at h
  cases ending : compressBody 0x4 s with
  | ok _ u => rw [ending] at h written; cases h; exact written.same
  | raised e u => rw [ending] at h written; cases h; exact written.same

/-- DECOMPRESS's states without a premise on the tree: enough for the frame and the counters. -/
theorem decodeBody_ends_decoding (op : Nat) {s : State} (hstart : s.dstLen = 0) :
    (decodeBody op s).Ends (fun _ v => ∃ u, v = closeDecoder u ∧ Decoding s u) (fun _ => Decoding s) := by
  have emit_keeps (x : Nat) {u : State} (hu : Decoding s u) :
      (emit op x u).Ends (fun _ v => Decoding s v ∧ v.rd = u.rd) (fun _ => Decoding s) := by
    refine (hu.emit_ends op x).mono (fun _ v hv => ?_) (fun e v hv => ?_)
    · obtain ⟨hdec, hrd, -⟩ := hv
      exact ⟨hdec, hrd⟩
    · obtain ⟨rfl, -⟩ := hv
      exact hu.closeReader
  rw [decodeBody_eq]
  refine (decodeLoop_ends (P := fun _ _ => Decoding s) (R := fun _ _ u => Decoding s u ∧ u.rd.rpos < u.rd.rlen) ?_ ?_
    (decoding_rOpen hstart)).bind fun pos u ⟨_, hu, _⟩ => ?_
  · intro n pos u hu hmore
    obtain ⟨-, hmore⟩ := (hasMore_iff u).1 hmore
    rw [emitIfLeaf_eq]
    split
    · exact (emit_keeps _ hu).bind fun _ v ⟨hv, hrd⟩ => ⟨hv, hrd ▸ hmore⟩
    · exact ⟨hu, hmore⟩
  · rintro n pos u ⟨hu, hmore⟩
    refine (hu.readBit_ends op hmore).mono (fun _ v hv => hv.1) (fun e v hv => ?_)
    obtain ⟨rfl, -⟩ := hv
    exact hu.closeReader
  · refine Run.Ends.bind (P := fun _ => Decoding s) ?_ fun _ v hv => ⟨v, rfl, hv⟩
    unfold finalEmit
    split
    · exact (emit_keeps _ hu).mono (fun _ v hv => hv.1) fun _ _ => id
    · exact hu

/-- How DECOMPRESS leaves the state when its tree is not empty and its reader is free. -/
theorem decoding_of_exec {s t : State} (hclosed : s.rd.ropen = false) (htree : s.tree.kind ≠ .empty)
    (h : exec .decompress s = .next t) :
    ∃ u, Decoding { s with dstValid := false, dstLen := 0 } u ∧ t.mem = u.mem ∧ t.dstLen = u.dstLen ∧
      t.rd.rpos = u.rd.rpos ∧ t.rd.rlen = u.rd.rlen := by
  have ends := decodeBody_ends_decoding 0x5 (s := { s with dstValid := false, dstLen := 0 }) rfl
  rw [exec_decompress_of_closed hclosed, decompressBody_of_tree 0x5 s htree] at h
  cases ending : decodeBody 0x5 { s with dstValid := false, dstLen := 0 } with
  | ok _ v =>
    rw [ending] at h ends
    obtain ⟨u, rfl, hu⟩ := ends
    cases h
    exact ⟨u, hu, rfl, rfl, rfl, rfl⟩
  | raised e u =>
    rw [ending] at h ends
    cases h
    exact ⟨u, ends, rfl, rfl, rfl, rfl⟩

/-- One artifact byte at most. -/
theorem writeBit_same (op : Nat) (b : Bool) {s : State} {a : Nat} (ha : s.wr.wcnt = 7 → a ≠ s.wbyteAddr) :
    (writeBit op b s).state.mem.read a = s.mem.read a := by
  rcases writeBit_cases op b s with ⟨-, run⟩ | ⟨hfull, -, run⟩ | ⟨-, -, run⟩ <;> rw [run]
  · rfl
  · exact Memory.read_write_other s.mem _ a _ (ha hfull)
  · rfl

theorem wClose_same (op : Nat) {s : State} {a : Nat} (ha : 0 < s.wr.wcnt → a ≠ s.wbyteAddr) :
    (wClose op s).state.mem.read a = s.mem.read a := by
  rcases wClose_cases op s with ⟨-, run⟩ | ⟨hpos, -, run⟩ | ⟨-, -, run⟩ <;> rw [run]
  · rfl
  · exact Memory.read_write_other s.mem _ a _ (ha hpos)
  · rfl

theorem mem_of_ended {u t : State} (h : Ended u t) : t.mem = u.mem := by
  obtain ⟨_, _, _, _, rfl⟩ := h
  rfl

/-- The span of a single byte. -/
theorem ne_of_outside_byte {a base : Nat} (h : a < base ∨ base + 1 ≤ a) : a ≠ base := by omega

/-- Settles O52: COMPRESS and DECOMPRESS by their frames, WBIT and WCLOSE by their one byte; no other command writes. -/
theorem commandsWriteOnlyTheirFootprint : Obligations.CommandsWriteOnlyTheirFootprint := by
  intro i s t a h hout
  cases i with
  | nop | analyze | buildtree | buildtable | clear | wopen | ropen | rbit | rclose =>
    rw [mem_of_exec h (by decide)]
  | compress =>
    cases hopen : s.wr.wopen with
    | true =>
      rw [exec_compress_of_open hopen] at h
      cases h
      rfl
    | false =>
      have hafter : afterExec .compress s = t := by simp only [afterExec, h]
      rw [footprint, if_neg (Bool.eq_false_iff.1 hopen), hafter] at hout
      exact sameOutside_exec_compress hopen h a (hout _ (List.mem_cons_of_mem _ List.mem_cons_self) rfl)
  | decompress =>
    cases hopen : s.rd.ropen with
    | true =>
      rw [exec_decompress_of_open hopen] at h
      cases h
      rfl
    | false =>
      by_cases htree : s.tree.kind = .empty
      · rw [decompressOfTheEmptyTree s hopen htree] at h
        cases h
        rfl
      · have hafter : afterExec .decompress s = t := by simp only [afterExec, h]
        obtain ⟨u, hu, hmem, hlen, -⟩ := decoding_of_exec hopen htree h
        rw [footprint, if_neg (by simp [hopen, htree]), hafter, hlen] at hout
        rw [hmem]
        exact hu.same a (hout _ (List.mem_cons_of_mem _ List.mem_cons_self) rfl)
  | wbit b =>
    rw [mem_of_ended (ended_of_exec h)]
    simp only [body]
    split
    · next hopen =>
      refine writeBit_same 0x8 b fun hfull => ne_of_outside_byte ?_
      rw [footprint, if_pos ⟨hopen, hfull⟩] at hout
      exact hout _ List.mem_cons_self rfl
    · rfl
  | wclose =>
    rw [mem_of_ended (ended_of_exec h)]
    simp only [body]
    split
    · next hopen =>
      refine wClose_same 0x9 fun hpos => ne_of_outside_byte ?_
      rw [footprint, if_pos ⟨hopen, hpos⟩] at hout
      exact hout _ List.mem_cons_self rfl
    · rfl

end Sys2Proof.Machine
end

section
/-! The streams' counters, the error record, HIST and the selectors through every step (10_state.md R36 to R38, R47, R56
to R58, R61, R65, R66), and every invariant at reset (R70). -/

namespace Sys2Proof.Machine

/-! ### The streams -/

theorem writing_self {s : State} (h : OpenWriter s.cfg.memSize s.wr) : Writing s.mem s.wr.wbase s :=
  ⟨h, rfl, sameOutside_refl _ _ _⟩

theorem writerInv_of_writing {m : Memory} {base : Word} {s : State} (h : Writing m base s) : WriterInv s :=
  (writerInv_iff s).2 (.inl h.writer)

theorem writerInv_of_written {valid : Bool} {m : Memory} {base : Word} {s : State} (h : Written valid m base s) :
    WriterInv s := (writerInv_iff s).2 (.inr h.writer)

theorem openWriter_of_inv {s : State} (h : WriterInv s) (hopen : s.wr.wopen = true) :
    OpenWriter s.cfg.memSize s.wr := by
  rcases (writerInv_iff s).1 h with hw | hw
  · exact hw
  · exact absurd (hw.open_eq.symm.trans hopen) (by decide)

theorem writerInv_body (i : Instr) {s : State} (h : WriterInv s) : WriterInv (body i s).state := by
  have own := ownState_body i s
  cases i with
  | nop => rw [own]; exact h
  | clear =>
    rw [own]
    exact (writerInv_iff _).2 (.inr ⟨rfl, Nat.zero_le 8, Nat.one_pos, Nat.zero_le _, le_refl 0, nofun⟩)
  | analyze | buildtree | buildtable | ropen | rbit | rclose =>
    obtain ⟨_, e⟩ := own
    rw [e]
    exact h
  | decompress =>
    obtain ⟨_, _, _, _, e⟩ := own
    rw [e]
    exact h
  | compress =>
    simp only [body]
    split
    · exact h
    · exact ((compressBody_ends_written 0x4 s).mono (fun _ _ => writerInv_of_written)
        (fun _ _ => writerInv_of_written)).state
  | wopen =>
    simp only [body]
    split
    · exact h
    · exact writerInv_of_writing (writing_wOpen s.outAddr s)
  | wbit b =>
    simp only [body]
    split
    · next hopen =>
      have writing := writing_self (openWriter_of_inv h hopen)
      exact ((writeBit_ends_writing 0x8 b writing).mono (fun _ _ => writerInv_of_writing)
        (fun _ _ => writerInv_of_written)).state
    · exact h
  | wclose =>
    simp only [body]
    split
    · next hopen =>
      have writing := writing_self (openWriter_of_inv h hopen)
      exact ((wClose_ends_written 0x9 writing).mono (fun _ _ => writerInv_of_written)
        (fun _ _ => writerInv_of_written)).state
    · exact h

theorem readerInv_of_decoding {s u : State} (h : Decoding s u) : ReaderInv u := by
  refine ⟨h.rpos_le, ?_, ?_⟩
  · rw [h.rlen_eq]
    exact s.srcBits.isLt
  · rw [h.cfg_eq]
    exact h.fits

/-- RBIT before the end moves one bit on. -/
theorem readerInv_deliverBit {s : State} (h : ReaderInv s) (hmore : s.rd.rpos < s.rd.rlen) :
    ReaderInv (deliverBit 0xB s).state := by
  obtain ⟨-, hlen, hdst⟩ := h
  rcases readBit_cases 0xB s with ⟨-, run⟩ | ⟨-, -, run⟩ | ⟨-, -, run⟩
  · rw [deliverBit_of_ok 0xB run]; exact ⟨hmore, hlen, hdst⟩
  · rw [deliverBit_of_ok 0xB run]; exact ⟨hmore, hlen, hdst⟩
  · rw [deliverBit_of_raised 0xB run]; exact ⟨hmore.le, hlen, hdst⟩

theorem readerInv_body (i : Instr) {s : State} (h : ReaderInv s) : ReaderInv (body i s).state := by
  have own := ownState_body i s
  have reset_fits : 0 * s.cfg.sb ≤ s.cfg.memSize := by rw [Nat.zero_mul]; exact Nat.zero_le _
  obtain ⟨hpos, hlen, hdst⟩ := h
  cases i with
  | nop => rw [own]; exact ⟨hpos, hlen, hdst⟩
  | clear => rw [own]; exact ⟨le_refl 0, Nat.two_pow_pos 64, reset_fits⟩
  | analyze | buildtree | buildtable | wopen => obtain ⟨_, e⟩ := own; rw [e]; exact ⟨hpos, hlen, hdst⟩
  | compress | wbit | wclose => obtain ⟨_, _, e⟩ := own; rw [e]; exact ⟨hpos, hlen, hdst⟩
  | decompress =>
    simp only [body]
    split
    · exact ⟨hpos, hlen, hdst⟩
    · by_cases htree : s.tree.kind = .empty
      · rw [decompressBody_of_empty 0x5 htree]
        exact ⟨hpos, hlen, reset_fits⟩
      · rw [decompressBody_of_tree 0x5 s htree]
        refine ((decodeBody_ends_decoding 0x5 (s := { s with dstValid := false, dstLen := 0 }) rfl).mono ?_
          fun _ _ => readerInv_of_decoding).state
        rintro _ _ ⟨u, rfl, hu⟩
        have inv : ReaderInv u := readerInv_of_decoding hu
        exact inv
  | ropen =>
    simp only [body]
    split
    · exact ⟨hpos, hlen, hdst⟩
    · exact ⟨Nat.zero_le _, s.srcBits.isLt, hdst⟩
  | rclose => simp only [body]; split <;> exact ⟨hpos, hlen, hdst⟩
  | rbit =>
    simp only [body]
    split
    · split
      · exact ⟨hpos, hlen, hdst⟩
      · next hmore => exact readerInv_deliverBit ⟨hpos, hlen, hdst⟩ (Nat.lt_of_not_le hmore)
    · exact ⟨hpos, hlen, hdst⟩

theorem streams_of_reset {s : State} (hwr : s.wr = Writer.reset) (hrd : s.rd = Reader.reset) (hlen : s.dstLen = 0) :
    WriterInv s ∧ ReaderInv s := by
  rw [WriterInv, ReaderInv, hwr, hrd, hlen, Nat.zero_mul]
  exact ⟨⟨Nat.zero_le 8, Nat.one_pos, Nat.zero_le _, le_refl 0, nofun, nofun⟩, le_refl 0, Nat.two_pow_pos 64,
    Nat.zero_le _⟩

/-- Settles O58: HOST's writes do not reach the streams, each command keeps their counters, and a reset clears them. -/
theorem streamCountersStayConsistent : Obligations.StreamCountersStayConsistent := by
  intro s t hwriter hreader h
  have kept : WriterInv t ∧ ReaderInv t := by
    refine step_keeps (P := fun s => WriterInv s ∧ ReaderInv s) ?same (fun r v s hs => ?write) (fun a v s _ hs => hs)
      (fun s _ => streams_of_reset rfl rfl rfl) (fun c s hs => hs) (fun s _ => streams_of_reset rfl rfl rfl) ?exec
      ⟨hwriter, hreader⟩ h
    case same => rintro s _ ⟨_, _, rfl⟩ hs; exact hs
    case write =>
      obtain ⟨hcfg, -, -, -, hwr, hrd, hlen, -⟩ := writeReg_frame r v s
      rw [WriterInv, ReaderInv, hcfg, hwr, hrd, hlen]
      exact hs
    case exec =>
      rintro i s t - ⟨hw, hr⟩ hexe
      obtain ⟨_, _, _, _, rfl⟩ := ended_of_exec hexe
      exact ⟨writerInv_body i hw, readerInv_body i hr⟩
  obtain ⟨hcnt, -, hbytes, hbits, -⟩ := kept.1
  exact ⟨kept.1, kept.2, by omega⟩

/-! ### The record, HIST and the selectors -/

theorem code_ne_none_of_canRaise {i : Instr} {e : Err} (h : CanRaise i e) : e.code ≠ .none := by
  rcases h with ⟨hbus, -⟩ | ⟨habsent, -⟩ | ⟨rfl, -⟩ | ⟨rfl, -⟩
  · rw [hbus]; decide
  · rw [habsent]; decide
  · exact (by decide : ErrCode.stream ≠ .none)
  · exact (by decide : ErrCode.eos ≠ .none)

theorem recordInv_raiseErr {e : Err} (he : e.code ≠ .none) (s : State) : RecordInv (raiseErr e s) :=
  ⟨⟨fun h => absurd h.symm Bool.false_ne_true, fun h => absurd h he⟩, fun h => absurd h.symm Bool.false_ne_true,
    fun h => absurd h Bool.false_ne_true⟩

theorem recordInv_exec {i : Instr} {s t : State} (hrec : RecordInv s) (h : exec i s = .next t) : RecordInv t := by
  rcases exec_ending h with ⟨u, run, rfl⟩ | ⟨e, u, -, he, rfl⟩
  · obtain ⟨herr, hcode, haddr, hinfo, -⟩ := run ▸ body_state_record i s
    obtain ⟨hagree, hclear, -⟩ := hrec
    have record : RecordInv { s with phase := .idle, done := true } :=
      ⟨hagree, hclear, fun h => absurd h Bool.false_ne_true⟩
    simp only [Run.state_ok] at herr hcode haddr hinfo
    rw [RecordInv, complete_err, complete_errcode, complete_errAddr, complete_errInfo, herr, hcode, haddr, hinfo]
    exact record
  · exact recordInv_raiseErr (code_ne_none_of_canRaise he) u

theorem histInv_setHist {s : State} (h : HistInv s) {x : Nat} (hx : x < s.cfg.nsym) (v : Word) :
    HistInv (s.setHist x v) := by
  obtain ⟨hwf, hbelow, hsel⟩ := h
  exact ⟨Sparse.wf_set _ _ _ _ hwf, Sparse.below_set _ _ _ _ _ hbelow hx, hsel⟩

theorem histInv_clearHist {s : State} (h : HistInv s) : HistInv { s with hist := [] } :=
  ⟨⟨List.Pairwise.nil, nofun⟩, Sparse.below_nil _, h.2.2⟩

theorem histInv_body (i : Instr) {s : State} (h : HistInv s) : HistInv (body i s).state := by
  have own := ownState_body i s
  cases i with
  | nop => rw [own]; exact h
  | clear => rw [own]; exact histInv_clearHist h
  | analyze =>
    exact (countLoop_ends (P := HistInv) (Q := fun _ => HistInv) (fun x u hx hu => histInv_setHist hu hx _)
      (fun _ _ hu => hu)
      s.inCount 0 (histInv_clearHist h)).state
  | buildtree | buildtable | wopen | ropen | rbit | rclose => obtain ⟨_, e⟩ := own; rw [e]; exact h
  | compress | wbit | wclose => obtain ⟨_, _, e⟩ := own; rw [e]; exact h
  | decompress => obtain ⟨_, _, _, _, e⟩ := own; rw [e]; exact h

theorem recordInv_writeStatus {s : State} (h : RecordInv s) (v : Word) : RecordInv (writeStatus v s) := by
  obtain ⟨hcode, hclear, hbusy⟩ := h
  refine ⟨hcode, hclear, fun hb => ?_⟩
  obtain ⟨hdone, herr⟩ := hbusy hb
  exact ⟨by rw [writeStatus_done, hdone]; rfl, herr⟩

/-- HOST's register writes: CMD clears the record as it makes CORE busy, STATUS only clears DONE, HDATA and the
selectors keep their widths. -/
theorem recordAndHist_writeReg (r : Reg) (v : Word) {s : State} (h : RecordInv s ∧ HistInv s) :
    RecordInv (writeReg r v s) ∧ HistInv (writeReg r v s) := by
  obtain ⟨hrec, hwf, hbelow, hhsel, hcsel, hnsel⟩ := h
  cases hp : s.phase with
  | resetting => rw [writeReg_of_resetting r v hp]; exact ⟨hrec, hwf, hbelow, hhsel, hcsel, hnsel⟩
  | running c =>
    rw [writeReg_of_running r v hp, writeRunning]
    split_ifs
    · exact ⟨hrec, hwf, hbelow, hhsel, hcsel, hnsel⟩
    · exact ⟨recordInv_writeStatus hrec v, hwf, hbelow, hhsel, hcsel, hnsel⟩
    · exact ⟨hrec, hwf, hbelow, hhsel, hcsel, hnsel⟩
    · exact ⟨hrec, hwf, hbelow, hhsel, hcsel, hnsel⟩
  | idle =>
    rw [writeReg_of_idle r v hp]
    have symbol : (BitVec.ofNat 16 (lowBits s.cfg.symBits v)).toNat < s.cfg.nsym := by
      rw [toNat_ofNat_lowBits (symBits_le s.cfg)]
      exact Nat.mod_lt _ (Nat.two_pow_pos _)
    cases r with
    | cmd =>
      have record : RecordInv (accept v s) := ⟨⟨fun _ => rfl, fun _ => rfl⟩, fun _ => ⟨rfl, rfl⟩, fun _ => ⟨rfl, rfl⟩⟩
      exact ⟨record, hwf, hbelow, hhsel, hcsel, hnsel⟩
    | status => exact ⟨recordInv_writeStatus hrec v, hwf, hbelow, hhsel, hcsel, hnsel⟩
    | hsel => exact ⟨hrec, hwf, hbelow, symbol, hcsel, hnsel⟩
    | csel => exact ⟨hrec, hwf, hbelow, hhsel, symbol, hnsel⟩
    | nsel =>
      refine ⟨hrec, hwf, hbelow, hhsel, hcsel, ?_⟩
      exact (toNat_ofNat_lowBits (nidxBits_le s.cfg) v).trans_lt (Nat.mod_lt _ (Nat.two_pow_pos _))
    | hdata => exact ⟨hrec, histInv_setHist ⟨hwf, hbelow, hhsel, hcsel, hnsel⟩ hhsel v⟩
    | ctrl | inAddr | inLen | outAddr | srcAddr | srcBitsLo | srcBitsHi | dstAddr | cwsel =>
      exact ⟨hrec, hwf, hbelow, hhsel, hcsel, hnsel⟩
    | id | config | memsz | errAddr | errInfo | nsyms | nnodes | root | wstate | rstate | rposLo | rposHi =>
      exact ⟨hrec, hwf, hbelow, hhsel, hcsel, hnsel⟩
    | outBitsLo | outBitsHi | outBytesLo | outBytesHi | dstLenLo | dstLenHi | clen | cword =>
      exact ⟨hrec, hwf, hbelow, hhsel, hcsel, hnsel⟩
    | ninfo | nleft | nright | nwgtLo | nwgtHi => exact ⟨hrec, hwf, hbelow, hhsel, hcsel, hnsel⟩

theorem recordAndHist_resetRegs (p : Phase) (s : State) : RecordInv (resetRegs p s) ∧ HistInv (resetRegs p s) :=
  ⟨⟨⟨fun _ => rfl, fun _ => rfl⟩, fun _ => ⟨rfl, rfl⟩, fun _ => ⟨rfl, rfl⟩⟩, ⟨List.Pairwise.nil, nofun⟩,
    Sparse.below_nil _, Nat.two_pow_pos _, Nat.two_pow_pos _, Nat.two_pow_pos _⟩

/-- Settles O59: the record through acceptance, the STATUS write and a command's ending; HIST and the selectors through
the writes that reach them. -/
theorem recordAndSelectorsStayWellFormed : Obligations.RecordAndSelectorsStayWellFormed := by
  intro s t hrec hhist h
  refine step_keeps (P := fun s => RecordInv s ∧ HistInv s) ?same (fun r v s => recordAndHist_writeReg r v)
    (fun a v s _ hs => hs) (fun s _ => recordAndHist_resetRegs .resetting _)
    (fun c s hs => ⟨recordInv_raiseErr (by decide : ErrCode.badcmd ≠ .none) s, hs.2⟩)
    (fun s _ => recordAndHist_resetRegs .idle s) ?exec ⟨hrec, hhist⟩ h
  case same => rintro s _ ⟨_, _, rfl⟩ hs; exact hs
  case exec =>
    rintro i s t - ⟨hr, hh⟩ hexe
    refine ⟨recordInv_exec hr hexe, ?_⟩
    obtain ⟨_, _, _, _, rfl⟩ := ended_of_exec hexe
    exact histInv_body i hh

/-! ### Reset -/

/-- The empty-tree sentinel is a tree without nodes (10_state.md R63). -/
theorem treeShape_of_empty (c : Config) {t : Tree} (hkind : t.kind = .empty) (hsyms : t.nsyms = 0)
    (hnodes : t.nnodes = 0) (hroot : t.root = 0) : TreeShape c t := by
  refine ⟨⟨fun _ => ⟨hsyms, hnodes, hroot⟩, fun h => absurd (hkind.symm.trans h) (by decide),
    fun h => absurd (hkind.symm.trans h) (by decide)⟩, hsyms ▸ Nat.zero_le _, ?_⟩
  rw [hsyms, hnodes]
  refine ⟨?_, ?_, ?_, ?_, ?_, ?_⟩ <;> exact fun _ h => absurd h (Nat.not_lt_zero _)

theorem treeInv_of_reset {s : State} (h : s.tree = Tree.reset) : TreeInv s := by
  rw [TreeInv, h]
  exact ⟨⟨List.Pairwise.nil, nofun⟩, Sparse.below_nil _, treeShape_of_empty _ rfl rfl rfl rfl⟩

theorem tableInv_of_nil {s : State} (h : s.ct = []) : TableInv s := by
  rw [TableInv, h]
  exact ⟨⟨List.Pairwise.nil, nofun⟩, Sparse.below_nil _, nofun, nofun⟩

/-- Settles O60: at reset every memory is empty and every register 0. -/
theorem resetMeetsTheInvariants : Obligations.ResetMeetsTheInvariants := by
  obtain ⟨hrec, hhist⟩ := recordAndHist_resetRegs .idle State.reset
  obtain ⟨hwriter, hreader⟩ := streams_of_reset (s := State.reset) rfl rfl rfl
  exact ⟨⟨reset_mem_wf, Sparse.below_nil _⟩, hhist, hrec, hwriter, hreader, treeInv_of_reset rfl, tableInv_of_nil rfl⟩

end Sys2Proof.Machine
end

section
/-! PopMin and the stages of BUILDTREE (42_tree.md R221 to R225, R230): what each stage leaves in the arena. -/

namespace Sys2Proof.Machine

/-! ### The priority order -/

theorem keyLt_iff (m : Sparse Node) (i j : Nat) :
    keyLt m i j = true ↔ (nodeAt m i).w < (nodeAt m j).w ∨ ((nodeAt m i).w = (nodeAt m j).w ∧ i < j) :=
  decide_eq_true_iff

theorem keyLt_trans {m : Sparse Node} {i j k : Nat} (hij : keyLt m i j = true) (hjk : keyLt m j k = true) :
    keyLt m i k = true := by
  rw [keyLt_iff] at *
  omega

theorem keyLt_of_not {m : Sparse Node} {i j : Nat} (hne : i ≠ j) (h : keyLt m i j ≠ true) : keyLt m j i = true := by
  rw [Ne, keyLt_iff] at h
  rw [keyLt_iff]
  omega

/-- The node PopMin takes has the least key. -/
theorem popMin_keyLt {m : Sparse Node} {q r : List Nat} {i : Nat} (hnodup : q.Nodup) (h : popMin m q = some (i, r)) :
    ∀ j ∈ r, keyLt m i j = true := by
  induction q generalizing i r with
  | nil => cases h
  | cons x q ih =>
    obtain ⟨hx, hq⟩ := List.nodup_cons.1 hnodup
    simp only [popMin] at h
    cases rest : popMin m q with
    | none => rw [rest] at h; cases h; exact nofun
    | some p =>
      obtain ⟨y, r'⟩ := p
      rw [rest] at h
      have least := ih hq rest
      have perm := popMin_perm m q y r' rest
      simp only at h
      split at h
      · next hyx =>
        cases h
        exact List.forall_mem_cons.2 ⟨hyx, least⟩
      · next hyx =>
        cases h
        have hxy : keyLt m x y = true :=
          keyLt_of_not (fun e => hx (e ▸ perm.subset List.mem_cons_self)) hyx
        intro j hj
        rcases List.mem_cons.1 (perm.symm.subset hj) with rfl | hj
        · exact hxy
        · exact keyLt_trans hxy (least j hj)

theorem popMin_some {m : Sparse Node} {q : List Nat} (h : q ≠ []) : ∃ i r, popMin m q = some (i, r) := by
  cases hpop : popMin m q with
  | none => exact absurd ((popMin_none m q).1 hpop) h
  | some p => exact ⟨p.1, p.2, rfl⟩

/-- Settles O36: PopMin's answer is a permutation of the collection with the least node first. -/
theorem popMinTakesTheLeastKey : Obligations.PopMinTakesTheLeastKey := by
  intro m q hne hnodup
  obtain ⟨i, r, hpop⟩ := popMin_some (m := m) hne
  exact ⟨i, r, hpop, popMin_perm m q i r hpop, fun j hj => (keyLt_iff m i j).1 (popMin_keyLt hnodup hpop j hj)⟩

/-! ### Leaf seeding -/

theorem wf_seedLeaves (s : State) (syms : List Nat) (k : Nat) {m : Sparse Node} (hwf : Sparse.wf Node.zero m) :
    Sparse.wf Node.zero (seedLeaves s syms k m) := by
  induction syms generalizing k m with
  | nil => exact hwf
  | cons x xs ih => exact ih (k + 1) (Sparse.wf_set _ _ _ _ hwf)

theorem below_seedLeaves (s : State) (syms : List Nat) (k : Nat) {m : Sparse Node} {n : Nat} (h : Sparse.below n m)
    (hn : k + syms.length ≤ n) : Sparse.below n (seedLeaves s syms k m) := by
  induction syms generalizing k m with
  | nil => exact h
  | cons x xs ih =>
    rw [List.length_cons] at hn
    exact ih (k + 1) (Sparse.below_set _ _ _ _ _ h (by omega)) (by omega)

/-- Seeding writes no entry but those of its symbols. -/
theorem nodeAt_seedLeaves_other (s : State) (syms : List Nat) {k i : Nat} (m : Sparse Node)
    (h : i < k ∨ k + syms.length ≤ i) : nodeAt (seedLeaves s syms k m) i = nodeAt m i := by
  induction syms generalizing k m with
  | nil => rfl
  | cons x xs ih =>
    rw [List.length_cons] at h
    rw [seedLeaves, ih _ (by omega), nodeAt_setNode_other m _ (by omega)]

/-- The j-th symbol takes the j-th index (42_tree.md R221). -/
theorem nodeAt_seedLeaves (s : State) {syms : List Nat} {k j : Nat} {m : Sparse Node} (hwf : Sparse.wf Node.zero m)
    (hj : j < syms.length) :
    nodeAt (seedLeaves s syms k m) (k + j) = Node.mkLeaf syms[j] (s.histAt syms[j]).toNat := by
  induction syms generalizing k j m with
  | nil => exact absurd hj j.not_lt_zero
  | cons x xs ih =>
    rw [seedLeaves]
    cases j with
    | zero => rw [nodeAt_seedLeaves_other s xs _ (by omega), Nat.add_zero, nodeAt_setNode_same hwf]; rfl
    | succ j =>
      have later := ih (k := k + 1) (m := setNode m k (Node.mkLeaf x (s.histAt x).toNat)) (Sparse.wf_set _ _ _ _ hwf)
        (Nat.lt_of_succ_lt_succ hj)
      rw [Nat.add_assoc, Nat.add_comm 1 j] at later
      exact later

/-! ### BUILDTREE of at most one symbol -/

theorem exec_buildtree (s : State) : exec .buildtree s = .next (endedOk { s with tree := buildTree s }) := rfl

theorem mem_presentSyms {s : State} {x : Nat} : x ∈ presentSyms s ↔ x < s.cfg.nsym ∧ s.histAt x ≠ 0 := by
  rw [presentSyms, List.mem_filter, List.mem_range, decide_eq_true_iff]

theorem nodup_presentSyms (s : State) : (presentSyms s).Nodup := List.Nodup.filter _ List.nodup_range

theorem buildTree_of_none {s : State} (h : presentSyms s = []) :
    buildTree s = { kind := .empty, root := 0, nnodes := 0, nsyms := 0, node := s.tree.node } := by
  simp only [buildTree, h]
  rfl

theorem buildTree_of_one {s : State} {x : Nat} (h : presentSyms s = [x]) :
    buildTree s =
      { kind := .degen, root := 0, nnodes := 1, nsyms := 1,
        node := setNode s.tree.node 0 (Node.mkLeaf x (s.histAt x).toNat) } := by
  simp only [buildTree, h]
  rfl

/-- The only present symbol is the FrequencyTable. -/
theorem presentSyms_eq_singleton {s : State} {x : Nat} (hx : x < s.cfg.nsym) (hcount : s.histAt x ≠ 0)
    (honly : ∀ y < s.cfg.nsym, y ≠ x → s.histAt y = 0) : presentSyms s = [x] := by
  have same := List.perm_ext_iff_of_nodup (nodup_presentSyms s) (List.nodup_singleton x)
  refine List.perm_singleton.1 (same.2 fun y => ?_)
  rw [mem_presentSyms, List.mem_singleton]
  constructor
  · rintro ⟨hy, hne⟩
    by_contra hyx
    exact hne (honly y hy hyx)
  · rintro rfl
    exact ⟨hx, hcount⟩

/-- Settles O33: with no symbol the seeding writes nothing, with one it writes node 0. -/
theorem buildtreeOfAtMostOneSymbol : Obligations.BuildtreeOfAtMostOneSymbol := by
  refine fun s => ⟨fun hnone => ?none, fun x hx hcount honly hwf => ?one⟩
  case none =>
    have empty : presentSyms s = [] :=
      List.eq_nil_iff_forall_not_mem.2 fun x hx => (mem_presentSyms.1 hx).2 (hnone x (mem_presentSyms.1 hx).1)
    rw [exec_buildtree, buildTree_of_none empty]
  case one =>
    refine ⟨setNode s.tree.node 0 (Node.mkLeaf x (s.histAt x).toNat), ?_, nodeAt_setNode_same hwf 0 _,
      fun i hi => nodeAt_setNode_other s.tree.node _ hi⟩
    rw [exec_buildtree, buildTree_of_one (presentSyms_eq_singleton hx hcount honly)]

end Sys2Proof.Machine
end

section
/-! The merge loop (42_tree.md R222 to R226): what holds of the arena and the collection between two merges, and the
tree it leaves. -/

namespace Sys2Proof.Machine

/-! ### Between two merges -/

/-- Node `k` was made by the greedy rule out of the collection before it (42_tree.md R222, R223, R225). -/
def GreedyAt (m : Sparse Node) (n k : Nat) : Prop :=
  inQueue m n k (nodeAt m k).left ∧ inQueue m n k (nodeAt m k).right ∧
  keyLt m (nodeAt m k).left (nodeAt m k).right = true ∧
  ∀ j < k, inQueue m n k j → j ≠ (nodeAt m k).left → j ≠ (nodeAt m k).right → keyLt m (nodeAt m k).right j = true

/-- The internal nodes below `k` that have node `i` as a child. -/
def parentsBelow (m : Sparse Node) (n k i : Nat) : List Nat :=
  (List.range k).filter (fun k' => decide (n ≤ k' ∧ childOf m k' i))

/-- The weights of the nodes of a list. -/
def weightSum (m : Sparse Node) (q : List Nat) : Nat := (q.map fun j => (nodeAt m j).w).sum

section
variable {n k : Nat} {m m' : Sparse Node}

theorem SameBelow.mono {k' : Nat} (h : SameBelow k m m') (hk : k' ≤ k) : SameBelow k' m m' :=
  ⟨h.wf_left, h.wf_right, fun i hi => h.nodeAt_eq i (hi.trans_le hk)⟩

theorem sameBelow_setNode (hwf : Sparse.wf Node.zero m) (k : Nat) (x : Node) : SameBelow k m (setNode m k x) :=
  ⟨hwf, Sparse.wf_set _ _ _ _ hwf, fun _ hi => (nodeAt_setNode_other m x hi.ne).symm⟩

theorem SameBelow.inQueue_iff (h : SameBelow k m m') (j : Nat) : inQueue m' n k j ↔ inQueue m n k j := by
  refine and_congr_right fun _ => forall₂_congr fun k' hk' => ?_
  rw [childOf, childOf, h.nodeAt_eq k' hk']

theorem SameBelow.internalOk (h : SameBelow (k + 1) m m') (hok : InternalOk m k) : InternalOk m' k := by
  obtain ⟨hleaf, hsym, hleft, hright, hne, hweight⟩ := hok
  rw [InternalOk, ← h.nodeAt_eq k k.lt_succ_self, ← h.nodeAt_eq _ (hleft.trans k.lt_succ_self),
    ← h.nodeAt_eq _ (hright.trans k.lt_succ_self)]
  exact ⟨hleaf, hsym, hleft, hright, hne, hweight⟩

theorem SameBelow.greedyAt (h : SameBelow (k + 1) m m') (hgreedy : GreedyAt m n k) : GreedyAt m' n k := by
  obtain ⟨hleft, hright, hlr, hrest⟩ := hgreedy
  have lower := h.mono k.le_succ
  rw [GreedyAt, ← h.nodeAt_eq k k.lt_succ_self]
  refine ⟨(lower.inQueue_iff _).2 hleft, (lower.inQueue_iff _).2 hright, ?_, fun j hj hin hne1 hne2 => ?_⟩
  · rw [← lower.keyLt_eq hleft.1 hright.1]
    exact hlr
  · rw [← lower.keyLt_eq hright.1 hj]
    exact hrest j hj ((lower.inQueue_iff j).1 hin) hne1 hne2

theorem SameBelow.parentsBelow_eq (h : SameBelow k m m') (i : Nat) : parentsBelow m' n k i = parentsBelow m n k i :=
  List.filter_congr fun k' hk' => by simp only [childOf, h.nodeAt_eq k' (List.mem_range.1 hk')]

theorem SameBelow.weightSum_eq (h : SameBelow k m m') {q : List Nat} (hq : ∀ j ∈ q, j < k) :
    weightSum m' q = weightSum m q :=
  congrArg List.sum (List.map_congr_left fun j hj => by rw [h.nodeAt_eq j (hq j hj)])

theorem parentsBelow_succ (m : Sparse Node) (n k i : Nat) :
    parentsBelow m n (k + 1) i = parentsBelow m n k i ++ if n ≤ k ∧ childOf m k i then [k] else [] := by
  rw [parentsBelow, List.range_succ, List.filter_append]
  congr 1
  by_cases h : n ≤ k ∧ childOf m k i
  · rw [if_pos h, List.filter_singleton, decide_eq_true h]; rfl
  · rw [if_neg h, List.filter_singleton, decide_eq_false h]; rfl

/-- A node of the collection has no parent yet. -/
theorem parentsBelow_of_inQueue {i : Nat} (h : inQueue m n k i) : parentsBelow m n k i = [] := by
  refine List.filter_eq_nil_iff.2 fun k' hk' => ?_
  rw [decide_eq_true_iff]
  rintro ⟨hle, hchild⟩
  exact h.2 k' (List.mem_range.1 hk') hle hchild

/-- Making node `k` takes its children out of the collection and puts `k` in. -/
theorem inQueue_succ (hle : n ≤ k) (hlow : ∀ k' < k + 1, n ≤ k' → (nodeAt m k').left < k' ∧ (nodeAt m k').right < k')
    (j : Nat) : inQueue m n (k + 1) j ↔ j = k ∨ (inQueue m n k j ∧ ¬ childOf m k j) := by
  constructor
  · rintro ⟨hj, hall⟩
    rcases Nat.lt_succ_iff_lt_or_eq.1 hj with hlt | heq
    · exact .inr ⟨⟨hlt, fun k' hk' => hall k' (hk'.trans k.lt_succ_self)⟩, hall k k.lt_succ_self hle⟩
    · exact .inl heq
  · rintro (rfl | ⟨⟨hj, hall⟩, htop⟩)
    · refine ⟨j.lt_succ_self, fun k' hk' hle' hc => ?_⟩
      obtain ⟨hl, hr⟩ := hlow k' hk' hle'
      rcases hc with hc | hc <;> omega
    · refine ⟨hj.trans k.lt_succ_self, fun k' hk' hle' => ?_⟩
      rcases Nat.lt_succ_iff_lt_or_eq.1 hk' with hlt | rfl
      · exact hall k' hlt hle'
      · exact htop

theorem weightSum_cons (m : Sparse Node) (i : Nat) (q : List Nat) :
    weightSum m (i :: q) = (nodeAt m i).w + weightSum m q := rfl

theorem weightSum_perm (m : Sparse Node) {q q' : List Nat} (h : q.Perm q') : weightSum m q = weightSum m q' :=
  (h.map _).sum_eq

end

/-- The arena and the collection just before node `k` is made out of `n` leaves; `m0` is the arena as it was seeded. -/
structure Forest (n : Nat) (m0 m : Sparse Node) (q : List Nat) (k : Nat) : Prop where
  wf : Sparse.wf Node.zero m
  le : n ≤ k
  nodup : q.Nodup
  count : q.length + k = 2 * n
  queue : ∀ j, j ∈ q ↔ inQueue m n k j
  kept : ∀ i, i < n ∨ k ≤ i → nodeAt m i = nodeAt m0 i
  internal : ∀ k' < k, n ≤ k' → InternalOk m k'
  greedy : ∀ k' < k, n ≤ k' → GreedyAt m n k'
  parent : ∀ i < k, i ∉ q → (parentsBelow m n k i).length = 1
  weight : weightSum m q = weightSum m0 (List.range n)
  bound : ∀ i < k, (nodeAt m i).w ≤ weightSum m0 (List.range n)

namespace Forest

variable {n k : Nat} {m0 m : Sparse Node} {q : List Nat}

theorem weight_le_sum {m : Sparse Node} {i : Nat} {q : List Nat} (h : i ∈ q) : (nodeAt m i).w ≤ weightSum m q :=
  List.single_le_sum (fun _ _ => Nat.zero_le _) _ (List.mem_map_of_mem h)

/-- The seeded leaves, all of them in the collection (42_tree.md R222). -/
theorem seeded (hwf : Sparse.wf Node.zero m0) (n : Nat) : Forest n m0 m0 (List.range n) n where
  wf := hwf
  le := le_refl n
  nodup := List.nodup_range
  count := by rw [List.length_range, Nat.two_mul]
  queue := fun j => by
    rw [List.mem_range]
    exact ⟨fun hj => ⟨hj, fun k' hk' hle => absurd hle (Nat.not_le.2 hk')⟩, And.left⟩
  kept := fun _ _ => rfl
  internal := fun k' hk' hle => absurd hle (Nat.not_le.2 hk')
  greedy := fun k' hk' hle => absurd hle (Nat.not_le.2 hk')
  parent := fun i hi hnot => absurd (List.mem_range.2 hi) hnot
  weight := rfl
  bound := fun i hi => weight_le_sum (List.mem_range.2 hi)

theorem lt (h : Forest n m0 m q k) {j : Nat} (hj : j ∈ q) : j < k := ((h.queue j).1 hj).1

/-- One merge: the two least nodes leave the collection, and node `k` over them enters it. -/
theorem merge (h : Forest n m0 m q k) {a b : Nat} {q1 q2 : List Nat} (first : popMin m q = some (a, q1))
    (second : popMin m q1 = some (b, q2)) :
    Forest n m0 (setNode m k (Node.mkInternal m a b)) (k :: q2) (k + 1) := by
  have perm1 := popMin_perm m q a q1 first
  have perm2 := popMin_perm m q1 b q2 second
  have perm : (a :: b :: q2).Perm q := (perm2.cons a).trans perm1
  have hmem (j : Nat) : j ∈ q ↔ j = a ∨ j = b ∨ j ∈ q2 := by
    rw [← perm.mem_iff, List.mem_cons, List.mem_cons]
  obtain ⟨ha_not, hnodup1⟩ := List.nodup_cons.1 (perm.nodup_iff.2 h.nodup)
  obtain ⟨hb_not, hnodup2⟩ := List.nodup_cons.1 hnodup1
  have hab : a ≠ b := fun e => ha_not (e ▸ List.mem_cons_self)
  have hak := h.lt ((hmem a).2 (.inl rfl))
  have hbk := h.lt ((hmem b).2 (.inr (.inl rfl)))
  have hq2 : ∀ j ∈ q2, j < k := fun j hj => h.lt ((hmem j).2 (.inr (.inr hj)))
  have same := sameBelow_setNode h.wf k (Node.mkInternal m a b)
  have top : nodeAt (setNode m k (Node.mkInternal m a b)) k = Node.mkInternal m a b := nodeAt_setNode_same h.wf k _
  have hchild (i : Nat) : childOf (setNode m k (Node.mkInternal m a b)) k i ↔ a = i ∨ b = i := by rw [childOf, top]; rfl
  have hweight : (Node.mkInternal m a b).w + weightSum m q2 = weightSum m q := by
    rw [← weightSum_perm m perm, weightSum_cons, weightSum_cons, ← Nat.add_assoc]
    rfl
  have hsum : weightSum (setNode m k (Node.mkInternal m a b)) (k :: q2) = weightSum m0 (List.range n) := by
    rw [weightSum_cons, top, same.weightSum_eq hq2, hweight, h.weight]
  have hinternal : ∀ k' < k + 1, n ≤ k' → InternalOk (setNode m k (Node.mkInternal m a b)) k' := by
    intro k' hk' hle
    rcases Nat.lt_succ_iff_lt_or_eq.1 hk' with hlt | rfl
    · exact (same.mono hlt).internalOk (h.internal k' hlt hle)
    · rw [InternalOk, top]
      refine ⟨rfl, rfl, hak, hbk, hab, ?_⟩
      exact congrArg₂ (· + ·) (congrArg Node.w (same.nodeAt_eq a hak)) (congrArg Node.w (same.nodeAt_eq b hbk))
  refine ⟨same.wf_right, h.le.trans k.le_succ, ?nodup, ?count, fun j => ?queue, fun i hi => ?kept, hinternal,
    fun k' hk' hle => ?greedy, fun i hi hnot => ?parent, hsum, fun i hi => ?bound⟩
  case nodup => exact List.nodup_cons.2 ⟨fun hk => absurd (hq2 k hk) k.lt_irrefl, hnodup2⟩
  case count =>
    have hlen := perm.length_eq
    have hcount := h.count
    rw [List.length_cons, List.length_cons] at hlen
    rw [List.length_cons]
    omega
  case queue =>
    have lower := fun k' (hk' : k' < k + 1) (hle : n ≤ k') => by
      obtain ⟨-, -, hl, hr, -⟩ := hinternal k' hk' hle
      exact And.intro hl hr
    rw [inQueue_succ h.le lower, List.mem_cons, same.inQueue_iff, ← h.queue, hmem, hchild]
    refine or_congr_right ⟨fun hj => ⟨.inr (.inr hj), ?_⟩, fun ⟨hj, hnot⟩ => ?_⟩
    · rintro (rfl | rfl)
      · exact ha_not (List.mem_cons_of_mem _ hj)
      · exact hb_not hj
    · exact (hj.resolve_left fun e => hnot (.inl e.symm)).resolve_left fun e => hnot (.inr e.symm)
  case kept =>
    have hne : i ≠ k := by have := h.le; omega
    rw [nodeAt_setNode_other m _ hne]
    exact h.kept i (by omega)
  case greedy =>
    rcases Nat.lt_succ_iff_lt_or_eq.1 hk' with hlt | rfl
    · exact (same.mono hlt).greedyAt (h.greedy k' hlt hle)
    · have hnodupq1 : q1.Nodup := perm2.nodup_iff.1 hnodup1
      have hab_lt := popMin_keyLt h.nodup first b (perm2.subset List.mem_cons_self)
      rw [GreedyAt, top]
      refine ⟨(same.inQueue_iff a).2 ((h.queue a).1 ((hmem a).2 (.inl rfl))),
        (same.inQueue_iff b).2 ((h.queue b).1 ((hmem b).2 (.inr (.inl rfl)))), ?_, fun j hj hin hja hjb => ?_⟩
      · exact (same.keyLt_eq hak hbk).symm.trans hab_lt
      · have hjq := (hmem j).1 ((h.queue j).2 ((same.inQueue_iff j).1 hin))
        exact (same.keyLt_eq hbk hj).symm.trans
          (popMin_keyLt hnodupq1 second j ((hjq.resolve_left hja).resolve_left hjb))
  case parent =>
    obtain ⟨hik, hi2⟩ := not_or.1 (mt List.mem_cons.2 hnot)
    have hlt : i < k := by omega
    rw [parentsBelow_succ, same.parentsBelow_eq, List.length_append]
    by_cases hnew : a = i ∨ b = i
    · have hin : i ∈ q := (hmem i).2 (by rcases hnew with rfl | rfl <;> simp)
      rw [parentsBelow_of_inQueue ((h.queue i).1 hin), if_pos ⟨h.le, (hchild i).2 hnew⟩]
      rfl
    · have hout : i ∉ q := fun hin => by
        rcases (hmem i).1 hin with rfl | rfl | hi
        · exact hnew (.inl rfl)
        · exact hnew (.inr rfl)
        · exact hi2 hi
      rw [if_neg fun hc => hnew ((hchild i).1 hc.2), h.parent i hlt hout]
      rfl
  case bound =>
    rcases Nat.lt_succ_iff_lt_or_eq.1 hi with hlt | rfl
    · rw [← same.nodeAt_eq i hlt]
      exact h.bound i hlt
    · rw [← hsum]
      exact weight_le_sum List.mem_cons_self

/-- The loop goes on until one node is left in the collection. -/
theorem mergeLoop (h : Forest n m0 m q k) {fuel : Nat} (hfuel : q.length ≤ fuel + 1) (hpos : 0 < q.length) :
    ∃ r, Forest n m0 (mergeLoop fuel m q k).1 [r] (mergeLoop fuel m q k).2 := by
  induction fuel generalizing m q k with
  | zero =>
    obtain ⟨r, rfl⟩ := List.length_eq_one_iff.1 (by omega : q.length = 1)
    exact ⟨r, h⟩
  | succ fuel ih =>
    obtain ⟨a, q1, first⟩ := popMin_some (m := m) (List.length_pos_iff.1 hpos)
    have len1 := (popMin_perm m q a q1 first).length_eq
    rw [List.length_cons] at len1
    simp only [Machine.mergeLoop, first]
    cases second : popMin m q1 with
    | none =>
      obtain ⟨r, rfl⟩ := List.length_eq_one_iff.1 (by rw [← len1, (popMin_none m q1).1 second]; rfl : q.length = 1)
      exact ⟨r, h⟩
    | some p =>
      obtain ⟨b, q2⟩ := p
      have len2 := (popMin_perm m q1 b q2 second).length_eq
      rw [List.length_cons] at len2
      exact ih (h.merge first second) (by rw [List.length_cons]; omega) (by rw [List.length_cons]; omega)

/-- The node left over is the last one made, ROOT. -/
theorem root_eq {r : Nat} (h : Forest n m0 m [r] k) (hn : 0 < n) : k = 2 * n - 1 ∧ r = 2 * n - 2 := by
  have hcount := h.count
  rw [List.length_singleton] at hcount
  have hk : k = 2 * n - 1 := by omega
  have last : k - 1 ∈ [r] := by
    refine (h.queue _).2 ⟨by omega, fun k' hk' hle hc => ?_⟩
    obtain ⟨-, -, hl, hr, -⟩ := h.internal k' hk' hle
    rcases hc with hc | hc <;> omega
  have := List.mem_singleton.1 last
  omega

end Forest

end Sys2Proof.Machine
end

section
/-! The tree BUILDTREE makes of two symbols or more (42_tree.md R222 to R226), and the tree's invariant. -/

namespace Sys2Proof.Machine

/-- The arena after leaf seeding (42_tree.md R221). -/
def seededArena (s : State) : Sparse Node := seedLeaves s (presentSyms s) 0 s.tree.node

section
variable {s : State}

theorem nodeAt_seededArena (hwf : Sparse.wf Node.zero s.tree.node) {j : Nat} (hj : j < (presentSyms s).length) :
    nodeAt (seededArena s) j = Node.mkLeaf (presentSyms s)[j] (s.histAt (presentSyms s)[j]).toNat := by
  have leaf := nodeAt_seedLeaves s (k := 0) hwf hj
  rwa [Nat.zero_add] at leaf

theorem length_presentSyms_le (s : State) : (presentSyms s).length ≤ s.cfg.nsym :=
  (List.length_filter_le _ _).trans_eq List.length_range

theorem presentSyms_lt {i j : Nat} (hij : i < j) (hj : j < (presentSyms s).length) :
    (presentSyms s)[i]'(hij.trans hj) < (presentSyms s)[j] :=
  List.pairwise_iff_getElem.1 (List.Pairwise.filter _ List.pairwise_lt_range) i j (hij.trans hj) hj hij

/-- The counts of all present symbols fit WGT_W bits (42_tree.md R224). -/
theorem weightSum_seeded_lt (hwf : Sparse.wf Node.zero s.tree.node) (hn : 0 < (presentSyms s).length) :
    weightSum (seededArena s) (List.range (presentSyms s).length) < 2 ^ s.cfg.wgtBits := by
  have each : ∀ w ∈ (List.range (presentSyms s).length).map (fun j => (nodeAt (seededArena s) j).w),
      w ≤ 2 ^ 32 - 1 := by
    intro w hw
    obtain ⟨j, hj, rfl⟩ := List.mem_map.1 hw
    rw [nodeAt_seededArena hwf (List.mem_range.1 hj)]
    exact Nat.le_sub_one_of_lt (BitVec.isLt _)
  have total := List.sum_le_card_nsmul _ _ each
  rw [List.length_map, List.length_range, smul_eq_mul] at total
  have hle := length_presentSyms_le s
  calc weightSum (seededArena s) (List.range (presentSyms s).length)
      ≤ (presentSyms s).length * (2 ^ 32 - 1) := total
    _ < (presentSyms s).length * 2 ^ 32 := Nat.mul_lt_mul_of_pos_left (by decide) hn
    _ ≤ s.cfg.nsym * 2 ^ 32 := Nat.mul_le_mul_right _ hle
    _ = 2 ^ s.cfg.wgtBits := by rw [Config.nsym, Config.wgtBits, pow_add, Nat.mul_comm]

/-- With two symbols or more the merge loop ends in a forest of one tree. -/
theorem forest_buildTree (hwf : Sparse.wf Node.zero s.tree.node) (hn : 2 ≤ (presentSyms s).length) :
    ∃ m, buildTree s =
        { kind := .normal, root := 2 * (presentSyms s).length - 2, nnodes := 2 * (presentSyms s).length - 1,
          nsyms := (presentSyms s).length, node := m } ∧
      Forest (presentSyms s).length (seededArena s) m [2 * (presentSyms s).length - 2]
        (2 * (presentSyms s).length - 1) := by
  have start := Forest.seeded (wf_seedLeaves s (presentSyms s) 0 hwf) (presentSyms s).length
  have hlen : (List.range (presentSyms s).length).length = (presentSyms s).length := List.length_range
  obtain ⟨r, last⟩ := start.mergeLoop (fuel := (presentSyms s).length) (by omega) (by omega)
  obtain ⟨hk, hr⟩ := last.root_eq (by omega)
  rw [hk, hr] at last
  refine ⟨_, ?_, last⟩
  simp only [buildTree, if_neg (by omega : ¬ (presentSyms s).length = 0),
    if_neg (by omega : ¬ (presentSyms s).length = 1),
    hk]
  rfl

theorem leafOk_of_seeded (hwf : Sparse.wf Node.zero s.tree.node) {j : Nat} (hj : j < (presentSyms s).length) :
    LeafOk s.cfg (nodeAt (seededArena s) j) := by
  obtain ⟨hsym, hcount⟩ := mem_presentSyms.1 (List.getElem_mem hj)
  rw [nodeAt_seededArena hwf hj]
  exact ⟨rfl, hsym, Nat.pos_of_ne_zero fun h => hcount (BitVec.eq_of_toNat_eq h), BitVec.isLt _, rfl, rfl⟩

/-- The shape of the tree a merged forest makes. -/
theorem treeShape_of_forest {m : Sparse Node} (hwf : Sparse.wf Node.zero s.tree.node) (hn : 2 ≤ (presentSyms s).length)
    (h : Forest (presentSyms s).length (seededArena s) m [2 * (presentSyms s).length - 2]
      (2 * (presentSyms s).length - 1)) :
    TreeShape s.cfg
      { kind := .normal, root := 2 * (presentSyms s).length - 2, nnodes := 2 * (presentSyms s).length - 1,
        nsyms := (presentSyms s).length, node := m } := by
  refine ⟨⟨nofun, nofun, fun _ => ⟨hn, rfl, rfl⟩⟩, length_presentSyms_le s, fun i hi => ?leaf, fun j hj i hij => ?order,
    h.internal, fun k hk => ?weight, fun i hi hne => ?parent, fun k hk hle => ?root⟩
  case leaf =>
    rw [h.kept i (.inl hi)]
    exact leafOk_of_seeded hwf hi
  case order =>
    rw [h.kept i (.inl (hij.trans hj)), h.kept j (.inl hj), nodeAt_seededArena hwf (hij.trans hj),
      nodeAt_seededArena hwf hj]
    exact presentSyms_lt hij hj
  case weight => exact (h.bound k hk).trans_lt (weightSum_seeded_lt hwf (by omega))
  case parent => exact h.parent i hi (mt List.mem_singleton.1 hne)
  case root => exact ((h.queue _).1 List.mem_cons_self).2 k hk hle

theorem leavesFrom_of_forest {m : Sparse Node} {q : List Nat} {k : Nat} (hwf : Sparse.wf Node.zero s.tree.node)
    (h : Forest (presentSyms s).length (seededArena s) m q k) {t : Tree} (hsyms : t.nsyms = (presentSyms s).length)
    (hnode : t.node = m) : LeavesFrom s.cfg.nsym s.hist t := by
  rw [LeavesFrom, hsyms, hnode]
  have leaf {i : Nat} (hi : i < (presentSyms s).length) := (h.kept i (.inl hi)).trans (nodeAt_seededArena hwf hi)
  refine ⟨?_, fun i hi => ?_⟩
  · refine List.ext_getElem (by rw [List.length_map, List.length_range]; rfl) fun i hi _ => ?_
    rw [List.length_map, List.length_range] at hi
    rw [List.getElem_map, List.getElem_range, leaf hi]
    rfl
  · rw [leaf hi]
    rfl

/-- Settles O34: the merge loop's forest is one tree, and no merge writes at NNODES or beyond. -/
theorem buildtreeMakesTheGreedyTree : Obligations.BuildtreeMakesTheGreedyTree := by
  intro s hwf _ hn
  obtain ⟨m, htree, forest⟩ := forest_buildTree hwf hn
  refine ⟨_, (exec_buildtree s).trans (by rw [htree]), rfl, rfl, treeShape_of_forest hwf hn forest,
    leavesFrom_of_forest hwf forest rfl rfl, forest.greedy, fun i hi => ?_⟩
  have hi : 2 * (presentSyms s).length - 1 ≤ i := hi
  have hn : 2 ≤ (presentSyms s).length := hn
  rw [forest.kept i (.inr hi)]
  exact nodeAt_seedLeaves_other s _ _ (.inr (by omega))

/-! ### The tree's invariant -/

theorem below_mergeLoop {fuel N k : Nat} {m : Sparse Node} {q : List Nat} (h : Sparse.below N m)
    (hN : k + q.length ≤ N + 1) : Sparse.below N (mergeLoop fuel m q k).1 := by
  induction fuel generalizing m q k with
  | zero => exact h
  | succ fuel ih =>
    unfold mergeLoop
    split
    · exact h
    · next a q1 first =>
      split
      · exact h
      · next b q2 second =>
        have len1 := (popMin_perm m q a q1 first).length_eq
        have len2 := (popMin_perm m q1 b q2 second).length_eq
        rw [List.length_cons] at len1 len2
        exact ih (Sparse.below_set _ _ _ _ _ h (by omega)) (by rw [List.length_cons]; omega)

theorem below_buildTree (h : Sparse.below s.cfg.maxNodes s.tree.node) :
    Sparse.below s.cfg.maxNodes (buildTree s).node := by
  have hle := length_presentSyms_le s
  have hpos : 0 < s.cfg.nsym := Nat.two_pow_pos _
  have hmax : s.cfg.maxNodes = 2 * s.cfg.nsym - 1 := rfl
  have seeded := below_seedLeaves s (presentSyms s) 0 h (by omega)
  simp only [buildTree]
  split_ifs
  · exact seeded
  · exact seeded
  · exact below_mergeLoop seeded (by rw [List.length_range]; omega)

theorem treeShape_of_leaf {c : Config} {x : Node} {m : Sparse Node} (hx : LeafOk c x) (hm : nodeAt m 0 = x) :
    TreeShape c { kind := .degen, root := 0, nnodes := 1, nsyms := 1, node := m } := by
  have hweight : 2 ^ 32 ≤ 2 ^ c.wgtBits := Nat.pow_le_pow_right (by decide) (Nat.le_add_right 32 c.symBits)
  refine ⟨⟨nofun, fun _ => ⟨rfl, rfl, rfl⟩, nofun⟩, Nat.two_pow_pos _, fun i hi => ?leaf, fun j hj i hij => ?order,
    fun k hk hle => ?internal, fun k hk => ?weight, fun i hi hne => ?parent, fun k hk hle => ?root⟩
  case leaf => rw [Nat.lt_one_iff.1 hi, hm]; exact hx
  case order => have hj : j < 1 := hj; omega
  case internal => exact absurd hle (Nat.not_le.2 hk)
  case weight =>
    obtain ⟨-, -, -, hlt, -⟩ := hx
    rw [Nat.lt_one_iff.1 hk, hm]
    exact hlt.trans_le hweight
  case parent => exact absurd (Nat.lt_one_iff.1 hi) hne
  case root => exact absurd hle (Nat.not_le.2 hk)

theorem treeShape_buildTree (hwf : Sparse.wf Node.zero s.tree.node) :
    Sparse.wf Node.zero (buildTree s).node ∧ TreeShape s.cfg (buildTree s) := by
  rcases hlen : presentSyms s with _ | ⟨x, _ | ⟨y, ys⟩⟩
  · rw [buildTree_of_none hlen]
    exact ⟨hwf, treeShape_of_empty s.cfg rfl rfl rfl rfl⟩
  · have leaf := leafOk_of_seeded hwf (j := 0) (by rw [hlen]; exact Nat.one_pos)
    rw [buildTree_of_one hlen]
    refine ⟨Sparse.wf_set _ _ _ _ hwf, treeShape_of_leaf leaf ?_⟩
    rw [seededArena, hlen]
    rfl
  · have hn : 2 ≤ (presentSyms s).length := by rw [hlen]; exact Nat.le_add_left 2 _
    obtain ⟨m, htree, forest⟩ := forest_buildTree hwf hn
    rw [htree]
    exact ⟨forest.wf, treeShape_of_forest hwf hn forest⟩

end

/-- HOST and the other commands leave the tree and the code table alone; CLEAR and reset give them their reset
values. -/
theorem step_keeps_tables {P : Config → Tree → Sparse (List Bool) → Prop} (hreset : ∀ c, P c Tree.reset [])
    (hbuildtree : ∀ s : State, P s.cfg s.tree s.ct → P s.cfg (buildTree s) s.ct)
    (hbuildtable : ∀ s : State, P s.cfg s.tree s.ct → P s.cfg s.tree (buildTable s.tree)) {s t : State}
    (hs : P s.cfg s.tree s.ct) (h : step s = .next t) : P t.cfg t.tree t.ct := by
  refine step_keeps (P := fun s => P s.cfg s.tree s.ct) ?same (fun r v s => ?write) (fun a v s _ hs => hs)
    (fun s _ => hreset s.cfg) (fun c s hs => hs) (fun s _ => hreset s.cfg) ?exec hs h
  case same => rintro s _ ⟨_, _, rfl⟩ hs; exact hs
  case write =>
    obtain ⟨hcfg, -, htree, hct, -⟩ := writeReg_frame r v s
    rw [hcfg, htree, hct]
    exact id
  case exec =>
    rintro i s t - hs hexe
    obtain ⟨_, _, _, _, rfl⟩ := ended_of_exec hexe
    have own := ownState_body i s
    cases i with
    | clear => exact hreset s.cfg
    | buildtree => exact hbuildtree s hs
    | buildtable => exact hbuildtable s hs
    | nop => exact own ▸ hs
    | analyze | wopen | ropen | rbit | rclose => obtain ⟨_, frame⟩ := own; exact frame ▸ hs
    | compress | wbit | wclose => obtain ⟨_, _, frame⟩ := own; exact frame ▸ hs
    | decompress => obtain ⟨_, _, _, _, frame⟩ := own; exact frame ▸ hs

/-- TreeInv, of the parameters and the tree alone. -/
def TreeOk (c : Config) (t : Tree) : Prop :=
  Sparse.wf Node.zero t.node ∧ Sparse.below c.maxNodes t.node ∧ TreeShape c t

theorem treeOk_reset (c : Config) : TreeOk c Tree.reset := treeInv_of_reset (s := { State.reset with cfg := c }) rfl

theorem treeOk_buildTree {s : State} (h : TreeOk s.cfg s.tree) : TreeOk s.cfg (buildTree s) := by
  obtain ⟨hwf, hbelow, -⟩ := h
  obtain ⟨hwf', hshape⟩ := treeShape_buildTree hwf
  exact ⟨hwf', below_buildTree hbelow, hshape⟩

/-- Settles O56: BUILDTREE makes a tree whatever the arena held. -/
theorem theTreeStaysATree : Obligations.TheTreeStaysATree := fun _ _ hs h =>
  step_keeps_tables (P := fun c t _ => TreeOk c t) treeOk_reset (fun _ => treeOk_buildTree) (fun _ hs => hs) hs h

end Sys2Proof.Machine
end

section
/-! The arena's tree as a shape of its own, and the leaves' paths in it (42_tree.md R226, 43_table.md R250). -/

namespace Sys2Proof.Machine

/-- A binary tree of arena indices. -/
inductive Shape where
  | leaf (i : Nat)
  | node (i : Nat) (left right : Shape)

namespace Shape

def nodes : Shape → List Nat
  | leaf i => [i]
  | node i l r => i :: (l.nodes ++ r.nodes)

/-- The leaves from left to right, each with its path. -/
def leafPaths : Shape → List (Nat × List Bool)
  | leaf i => [(i, [])]
  | node _ l r => l.leafPaths.map (fun e => (e.1, false :: e.2)) ++ r.leafPaths.map (fun e => (e.1, true :: e.2))

def leaves (S : Shape) : List Nat := S.leafPaths.map Prod.fst

theorem leaves_leaf (i : Nat) : (leaf i).leaves = [i] := rfl

theorem leaves_node (i : Nat) (l r : Shape) : (node i l r).leaves = l.leaves ++ r.leaves := by
  simp only [leaves, leafPaths, List.map_append, List.map_map]
  rfl

theorem mem_leafPaths_node {i : Nat} {l r : Shape} {e : Nat × List Bool} :
    e ∈ (node i l r).leafPaths ↔
      (∃ q, (e.1, q) ∈ l.leafPaths ∧ e.2 = false :: q) ∨ (∃ q, (e.1, q) ∈ r.leafPaths ∧ e.2 = true :: q) := by
  obtain ⟨j, path⟩ := e
  simp [leafPaths, eq_comm]

theorem leaves_sublist (S : Shape) : S.leaves.Sublist S.nodes := by
  induction S with
  | leaf i => exact List.Sublist.refl _
  | node i l r ihl ihr =>
    rw [leaves_node]
    exact (ihl.append ihr).cons i

theorem leaves_length_pos (S : Shape) : 0 < S.leaves.length := by
  induction S with
  | leaf i => exact Nat.one_pos
  | node i l r ihl _ =>
    rw [leaves_node, List.length_append]
    exact Nat.add_pos_left ihl _

/-- A path is shorter than the number of leaves. -/
theorem length_path_lt (S : Shape) : ∀ e ∈ S.leafPaths, e.2.length < S.leaves.length := by
  induction S with
  | leaf i => exact fun e he => by rw [List.mem_singleton.1 he]; exact Nat.one_pos
  | node i l r ihl ihr =>
    intro e he
    have hl := leaves_length_pos l
    have hr := leaves_length_pos r
    rw [leaves_node, List.length_append]
    rcases mem_leafPaths_node.1 he with ⟨q, hq, hpath⟩ | ⟨q, hq, hpath⟩ <;> rw [hpath, List.length_cons]
    · have : q.length < l.leaves.length := ihl _ hq
      omega
    · have : q.length < r.leaves.length := ihr _ hq
      omega

/-- No leaf's path goes through another leaf. -/
theorem eq_of_isPrefix (S : Shape) {e f : Nat × List Bool} (he : e ∈ S.leafPaths) (hf : f ∈ S.leafPaths)
    (h : e.2 <+: f.2) : e = f := by
  induction S generalizing e f with
  | leaf i => rw [List.mem_singleton.1 he, List.mem_singleton.1 hf]
  | node i l r ihl ihr =>
    have lift {b : Bool} {q q' : List Bool} (hq : e.2 = b :: q) (hq' : f.2 = b :: q')
        (same : (e.1, q) = (f.1, q')) : e = f := by
      obtain ⟨hi, hpath⟩ := Prod.mk.injEq .. ▸ same
      exact Prod.ext hi (by rw [hq, hq', hpath])
    rcases mem_leafPaths_node.1 he with ⟨q, hq, hpath⟩ | ⟨q, hq, hpath⟩ <;>
      rcases mem_leafPaths_node.1 hf with ⟨q', hq', hpath'⟩ | ⟨q', hq', hpath'⟩ <;>
      rw [hpath, hpath', List.cons_prefix_cons] at h
    · exact lift hpath hpath' (ihl hq hq' h.2)
    · exact absurd h.1 Bool.false_ne_true
    · exact absurd h.1.symm Bool.false_ne_true
    · exact lift hpath hpath' (ihr hq hq' h.2)

/-- Kraft's equality, scaled to 2^n (43_table.md R254). -/
theorem kraft_sum (S : Shape) {n : Nat} (hn : ∀ e ∈ S.leafPaths, e.2.length ≤ n) :
    (S.leafPaths.map fun e => 2 ^ (n - e.2.length)).sum = 2 ^ n := by
  induction S generalizing n with
  | leaf i => rfl
  | node i l r ihl ihr =>
    have lower {q : List Bool} {j : Nat} (b : Bool) (h : (j, b :: q) ∈ (node i l r).leafPaths) : q.length + 1 ≤ n :=
      hn _ h
    obtain ⟨e, he⟩ := List.exists_mem_of_length_pos (by simpa [leaves] using leaves_length_pos l)
    obtain ⟨n, rfl⟩ : ∃ m, n = m + 1 :=
      ⟨n - 1, (Nat.sub_add_cancel ((Nat.le_add_left 1 _).trans
        (lower false (mem_leafPaths_node.2 (.inl ⟨e.2, he, rfl⟩))))).symm⟩
    have left := ihl fun e he => Nat.le_of_succ_le_succ (lower false (mem_leafPaths_node.2 (.inl ⟨e.2, he, rfl⟩)))
    have right := ihr fun e he => Nat.le_of_succ_le_succ (lower true (mem_leafPaths_node.2 (.inr ⟨e.2, he, rfl⟩)))
    simp only [leafPaths, List.map_append, List.map_map, List.sum_append, Function.comp_def, List.length_cons,
      Nat.add_sub_add_right, left, right]
    rw [pow_succ, Nat.mul_two]

end Shape

/-- The arena holds the tree `S` under node `p`. -/
inductive Spans (m : Sparse Node) : Nat → Shape → Prop
  | leaf {p : Nat} (hleaf : (nodeAt m p).leaf = true) : Spans m p (.leaf p)
  | node {p : Nat} {l r : Shape} (hleaf : (nodeAt m p).leaf = false) (hlt : (nodeAt m p).left < p)
      (hrt : (nodeAt m p).right < p) (hl : Spans m (nodeAt m p).left l) (hr : Spans m (nodeAt m p).right r) :
      Spans m p (.node p l r)

namespace Spans

variable {m : Sparse Node} {p : Nat} {S : Shape}

theorem le_of_mem (h : Spans m p S) {i : Nat} (hi : i ∈ S.nodes) : i ≤ p := by
  induction h with
  | leaf => exact (List.mem_singleton.1 hi).le
  | node hleaf hlt hrt _ _ ihl ihr =>
    rcases List.mem_cons.1 hi with rfl | hi
    · exact le_refl _
    · rcases List.mem_append.1 hi with hi | hi
      · exact (ihl hi).trans hlt.le
      · exact (ihr hi).trans hrt.le

theorem mem_leaves (h : Spans m p S) {i : Nat} : i ∈ S.leaves ↔ i ∈ S.nodes ∧ (nodeAt m i).leaf = true := by
  induction h with
  | leaf hleaf =>
    rw [Shape.leaves_leaf, Shape.nodes, List.mem_singleton]
    exact ⟨fun e => ⟨e, e ▸ hleaf⟩, And.left⟩
  | @node p l r hleaf _ _ _ _ ihl ihr =>
    rw [Shape.leaves_node, Shape.nodes, List.mem_cons, List.mem_append, List.mem_append, ihl, ihr]
    constructor
    · rintro (⟨hi, hl⟩ | ⟨hi, hl⟩)
      · exact ⟨.inr (.inl hi), hl⟩
      · exact ⟨.inr (.inr hi), hl⟩
    · rintro ⟨rfl | hi | hi, hl⟩
      · exact absurd (hleaf.symm.trans hl) Bool.false_ne_true
      · exact .inl ⟨hi, hl⟩
      · exact .inr ⟨hi, hl⟩

/-- A node with one parent stands under `p` as often as its parent does, and once more if it is `p` itself. -/
theorem count_eq (h : Spans m p S) {i k : Nat} (hk : (nodeAt m k).leaf = false)
    (hparent : ∀ k' ≤ p, (nodeAt m k').leaf = false → (childOf m k' i ↔ k' = k))
    (hdiff : ∀ k' ≤ p, (nodeAt m k').leaf = false → (nodeAt m k').left ≠ (nodeAt m k').right) :
    S.nodes.count i = (if p = i then 1 else 0) + S.nodes.count k := by
  induction h with
  | @leaf p hleaf =>
    have hpk : p ≠ k := fun e => absurd (hk.symm.trans (e ▸ hleaf)) Bool.false_ne_true
    simp [Shape.nodes, List.count_singleton, hpk]
  | @node p l r hleaf hlt hrt _ _ ihl ihr =>
    have left := ihl (fun k' hk' => hparent k' (hk'.trans hlt.le)) (fun k' hk' => hdiff k' (hk'.trans hlt.le))
    have right := ihr (fun k' hk' => hparent k' (hk'.trans hrt.le)) (fun k' hk' => hdiff k' (hk'.trans hrt.le))
    have here : (if (nodeAt m p).left = i then 1 else 0) + (if (nodeAt m p).right = i then 1 else 0)
        = if p = k then 1 else 0 := by
      have hne := hdiff p (le_refl p) hleaf
      have hpar : p = k ↔ (nodeAt m p).left = i ∨ (nodeAt m p).right = i := (hparent p (le_refl p) hleaf).symm
      rw [if_congr hpar rfl rfl]
      split_ifs <;> omega
    simp only [Shape.nodes, List.count_cons, List.count_append, beq_iff_eq, left, right]
    omega

end Spans

/-! ### The tree of TreeShape -/

section
variable {c : Config} {t : Tree}

theorem leaf_iff_lt (h : TreeShape c t) {k : Nat} (hk : k < t.nnodes) :
    (nodeAt t.node k).leaf = true ↔ k < t.nsyms := by
  obtain ⟨-, -, hleaf, -, hinternal, -⟩ := h
  refine ⟨fun his => ?_, fun hlt => (hleaf k hlt).1⟩
  by_contra hge
  exact absurd ((hinternal k hk (Nat.le_of_not_lt hge)).1.symm.trans his) Bool.false_ne_true

theorem exists_spans (h : TreeShape c t) {k : Nat} (hk : k < t.nnodes) : ∃ S, Spans t.node k S := by
  induction k using Nat.strong_induction_on with
  | _ k ih =>
    rcases leafOk_or_internalOk h hk with ⟨hleaf, -⟩ | ⟨hleaf, -, hlt, hrt, -⟩
    · exact ⟨_, .leaf hleaf⟩
    · obtain ⟨l, hl⟩ := ih _ hlt (hlt.trans hk)
      obtain ⟨r, hr⟩ := ih _ hrt (hrt.trans hk)
      exact ⟨_, .node hleaf hlt hrt hl hr⟩

theorem exists_parent (h : TreeShape c t) {i : Nat} (hi : i < t.nnodes) (hne : i ≠ t.root) :
    ∃ k < t.nnodes, i < k ∧ (nodeAt t.node k).leaf = false ∧
      ∀ k' < t.nnodes, (nodeAt t.node k').leaf = false → (childOf t.node k' i ↔ k' = k) := by
  have internal {k : Nat} (hk : k < t.nnodes) : (nodeAt t.node k).leaf = false ↔ t.nsyms ≤ k := by
    rw [← Bool.not_eq_true, leaf_iff_lt h hk, Nat.not_lt]
  obtain ⟨-, -, -, -, hinternal, -, hparents, -⟩ := h
  obtain ⟨k, hk⟩ := List.length_eq_one_iff.1 (hparents i hi hne)
  have mem (k' : Nat) : k' < t.nnodes ∧ t.nsyms ≤ k' ∧ childOf t.node k' i ↔ k' = k := by
    rw [← List.mem_singleton, ← hk, List.mem_filter, List.mem_range, decide_eq_true_iff]
  obtain ⟨hlt, hle, hchild⟩ := (mem k).2 rfl
  obtain ⟨-, -, hl, hr, -⟩ := hinternal k hlt hle
  refine ⟨k, hlt, by rcases hchild with e | e <;> omega, (internal hlt).2 hle, fun k' hk' hnot => ?_⟩
  rw [← mem k']
  exact ⟨fun hc => ⟨hk', (internal hk').1 hnot, hc⟩, fun hall => hall.2.2⟩

/-- Every node stands exactly once under ROOT: ROOT because children have lower indices, another node because its one
parent does. -/
theorem count_nodes (h : TreeShape c t) (hkind : t.kind = .normal) {S : Shape} (hS : Spans t.node t.root S) {i : Nat}
    (hi : i < t.nnodes) : S.nodes.count i = 1 := by
  obtain ⟨⟨-, -, hnormal⟩, -, -, -, hinternal, -⟩ := id h
  obtain ⟨hn, hnodes, hroot⟩ := hnormal hkind
  induction hd : t.nnodes - i using Nat.strong_induction_on generalizing i with
  | _ d ih =>
    by_cases hne : i = t.root
    · subst hne
      cases hS with
      | leaf hleaf => exact List.count_singleton_self
      | node hleaf hlt hrt hl hr =>
        have out : t.root ∉ _ ++ _ := fun hmem => by
          rcases List.mem_append.1 hmem with hmem | hmem
          · exact absurd (hl.le_of_mem hmem) (Nat.not_le.2 hlt)
          · exact absurd (hr.le_of_mem hmem) (Nat.not_le.2 hrt)
        rw [Shape.nodes, List.count_cons_self, List.count_eq_zero.2 out]
    · obtain ⟨k, hk, hik, hleaf, hparent⟩ := exists_parent h hi hne
      have internal {k' : Nat} (hk' : k' < t.nnodes) (hnot : (nodeAt t.node k').leaf = false) : InternalOk t.node k' :=
        hinternal k' hk' (Nat.not_lt.1 fun hlt =>
          absurd (hnot.symm.trans ((leaf_iff_lt h hk').2 hlt)) Bool.false_ne_true)
      have lt {k' : Nat} (hk' : k' ≤ t.root) : k' < t.nnodes := by omega
      rw [hS.count_eq hleaf (fun k' hk' => hparent k' (lt hk')) fun k' hk' hnot => by
        obtain ⟨-, -, -, -, hdiff, -⟩ := internal (lt hk') hnot
        exact hdiff]
      rw [if_neg (Ne.symm hne), ih (t.nnodes - k) (by omega) hk rfl]

/-- Every node of a NORMAL tree stands exactly once under ROOT. -/
theorem exists_shape (h : TreeShape c t) (hkind : t.kind = .normal) :
    ∃ S, Spans t.node t.root S ∧ S.nodes.Perm (List.range t.nnodes) ∧ S.leaves.Perm (List.range t.nsyms) := by
  obtain ⟨⟨-, -, hnormal⟩, -⟩ := id h
  obtain ⟨hn, hnodes, hroot⟩ := hnormal hkind
  obtain ⟨S, hS⟩ := exists_spans h (by omega : t.root < t.nnodes)
  have bounded {i : Nat} (hi : i ∈ S.nodes) : i < t.nnodes := by have := hS.le_of_mem hi; omega
  have hnodup : S.nodes.Nodup := List.nodup_iff_count_le_one.2 fun i => by
    by_cases hi : i ∈ S.nodes
    · exact (count_nodes h hkind hS (bounded hi)).le
    · rw [List.count_eq_zero.2 hi]
      exact Nat.zero_le 1
  have mem (i : Nat) : i ∈ S.nodes ↔ i < t.nnodes :=
    ⟨bounded, fun hi => List.count_pos_iff.1 (by rw [count_nodes h hkind hS hi]; exact Nat.one_pos)⟩
  refine ⟨S, hS, (List.perm_ext_iff_of_nodup hnodup List.nodup_range).2 fun i => ?_,
    (List.perm_ext_iff_of_nodup (hnodup.sublist S.leaves_sublist) List.nodup_range).2 fun i => ?_⟩
  · rw [mem, List.mem_range]
  · rw [hS.mem_leaves, mem, List.mem_range]
    constructor
    · rintro ⟨hi, hleaf⟩
      exact (leaf_iff_lt h hi).1 hleaf
    · intro hi
      have hlt : i < t.nnodes := by omega
      exact ⟨hlt, (leaf_iff_lt h hlt).2 hi⟩

end

end Sys2Proof.Machine
end

section
/-! BUILDTABLE of a NORMAL tree (43_table.md R250 to R254): the walk records every leaf's path. -/

namespace Sys2Proof.Machine

namespace Spans

variable {m : Sparse Node} {p : Nat} {S : Shape}

/-- The paths of the leaves are the bit paths that end in a leaf. -/
theorem mem_leafPaths (h : Spans m p S) {i : Nat} {path : List Bool} :
    (i, path) ∈ S.leafPaths ↔ descend m p path = some i ∧ (nodeAt m i).leaf = true := by
  induction h generalizing path with
  | @leaf p hleaf =>
    rw [Shape.leafPaths, List.mem_singleton, Prod.mk.injEq]
    cases path with
    | nil =>
      rw [descend, Option.some_inj]
      exact ⟨fun ⟨e, _⟩ => ⟨e.symm, e ▸ hleaf⟩, fun ⟨e, _⟩ => ⟨e.symm, rfl⟩⟩
    | cons b bs => simp [descend, hleaf]
  | @node p l r hleaf _ _ _ _ ihl ihr =>
    rw [Shape.mem_leafPaths_node]
    cases path with
    | nil =>
      have hne : ¬ (descend m p [] = some i ∧ (nodeAt m i).leaf = true) := by
        rintro ⟨e, hl⟩
        rw [← Option.some_inj.1 e, hleaf] at hl
        cases hl
      simp [hne]
    | cons b bs =>
      cases b with
      | false => simp [descend, hleaf, ihl]
      | true => simp [descend, hleaf, ihr]

/-- The walk under a node gives each of its leaves' symbols its path, and leaves the other entries alone. -/
theorem get_walk (h : Spans m p S) (hsyms : (S.leaves.map fun i => (nodeAt m i).sym).Nodup) {d : Nat} (hd : p < d)
    (path : List Bool) {ct : Sparse (List Bool)} (hwf : Sparse.wf [] ct) :
    Sparse.wf [] (walk m d p path ct) ∧
    (∀ e ∈ S.leafPaths, Sparse.get [] (walk m d p path ct) (nodeAt m e.1).sym = path ++ e.2) ∧
    ∀ x, x ∉ S.leaves.map (fun i => (nodeAt m i).sym) → Sparse.get [] (walk m d p path ct) x = Sparse.get [] ct x := by
  induction h generalizing d path ct with
  | @leaf p hleaf =>
    obtain ⟨d, rfl⟩ := Nat.exists_eq_add_of_lt hd
    rw [walk, if_pos hleaf, setCode]
    refine ⟨Sparse.wf_set _ _ _ _ hwf, fun e he => ?_, fun x hx => ?_⟩
    · rw [List.mem_singleton.1 he, Sparse.get_set_same [] ct hwf, List.append_nil]
    · exact Sparse.get_set_other [] ct _ x path fun e => hx (List.mem_singleton.2 e)
  | @node p l r hleaf hlt hrt _ _ ihl ihr =>
    obtain ⟨d, rfl⟩ := Nat.exists_eq_add_of_lt hd
    rw [walk, if_neg (Bool.eq_false_iff.1 hleaf)]
    rw [Shape.leaves_node, List.map_append] at *
    obtain ⟨hl, hr, hapart⟩ := List.nodup_append'.1 hsyms
    obtain ⟨hwfl, inl, outl⟩ := ihl hl (d := p + d) (by omega) (path ++ [false]) hwf
    obtain ⟨hwfr, inr, outr⟩ := ihr hr (d := p + d) (by omega) (path ++ [true]) hwfl
    refine ⟨hwfr, fun e he => ?_, fun x hx => ?_⟩
    · rcases Shape.mem_leafPaths_node.1 he with ⟨q, hq, hpath⟩ | ⟨q, hq, hpath⟩
      · have hmem := List.mem_map_of_mem (f := fun i => (nodeAt m i).sym) (List.mem_map_of_mem (f := Prod.fst) hq)
        rw [outr _ (hapart hmem), inl _ hq, hpath, List.append_assoc]
        rfl
      · rw [inr _ hq, hpath, List.append_assoc]
        rfl
    · obtain ⟨hxl, hxr⟩ := not_or.1 (mt List.mem_append.2 hx)
      rw [outr x hxr, outl x hxl]

end Spans

/-! ### The table of a NORMAL tree -/

theorem buildTable_of_normal {t : Tree} (h : t.kind = .normal) :
    buildTable t = walk t.node (t.root + 1) t.root [] [] := by
  simp only [buildTable, h]

theorem sym_inj {c : Config} {t : Tree} (h : TreeShape c t) {i j : Nat} (hi : i < t.nsyms) (hj : j < t.nsyms)
    (hsym : (nodeAt t.node i).sym = (nodeAt t.node j).sym) : i = j := by
  obtain ⟨-, -, -, horder, -⟩ := h
  rcases Nat.lt_trichotomy i j with hlt | heq | hlt
  · exact absurd hsym (horder j hj i hlt).ne
  · exact heq
  · exact absurd hsym.symm (horder i hi j hlt).ne

/-- The shape `S` of a NORMAL tree, and the table BUILDTABLE makes of it. -/
structure CodeTree (t : Tree) (S : Shape) : Prop where
  spans : Spans t.node t.root S
  nodes : S.nodes.Perm (List.range t.nnodes)
  leaves : S.leaves.Perm (List.range t.nsyms)
  wf : Sparse.wf [] (buildTable t)
  code : ∀ e ∈ S.leafPaths, Sparse.get [] (buildTable t) (nodeAt t.node e.1).sym = e.2
  absent : ∀ x, (∀ i < t.nsyms, (nodeAt t.node i).sym ≠ x) → Sparse.get [] (buildTable t) x = []
  nonempty : ∀ e ∈ S.leafPaths, e.2 ≠ []

theorem exists_codeTree {c : Config} {t : Tree} (h : TreeShape c t) (hkind : t.kind = .normal) : ∃ S, CodeTree t S := by
  obtain ⟨S, spans, nodes, leaves⟩ := exists_shape h hkind
  have hsyms : (S.leaves.map fun i => (nodeAt t.node i).sym).Nodup := by
    refine List.Nodup.map_on (fun i hi j hj => sym_inj h (List.mem_range.1 (leaves.subset hi))
      (List.mem_range.1 (leaves.subset hj))) (leaves.nodup_iff.2 List.nodup_range)
  obtain ⟨hwf, inside, outside⟩ := spans.get_walk hsyms (Nat.lt_succ_self _) [] (ct := []) ⟨List.Pairwise.nil, nofun⟩
  rw [← buildTable_of_normal hkind] at hwf inside outside
  refine ⟨S, spans, nodes, leaves, hwf, inside, fun x hx => ?_, fun e he hempty => ?_⟩
  · refine outside x fun hmem => ?_
    obtain ⟨i, hi, hsym⟩ := List.mem_map.1 hmem
    exact hx i (List.mem_range.1 (leaves.subset hi)) hsym
  · obtain ⟨i, path⟩ := e
    cases hempty
    obtain ⟨hroot, hleaf⟩ := spans.mem_leafPaths.1 he
    rw [← Option.some_inj.1 hroot, (root_leaf h).1 hkind] at hleaf
    cases hleaf

namespace CodeTree

variable {t : Tree} {S : Shape}

theorem exists_path (h : CodeTree t S) {i : Nat} (hi : i < t.nsyms) : ∃ path, (i, path) ∈ S.leafPaths := by
  obtain ⟨e, he, rfl⟩ := List.mem_map.1 (h.leaves.symm.subset (List.mem_range.2 hi))
  exact ⟨e.2, he⟩

theorem lt (h : CodeTree t S) {e : Nat × List Bool} (he : e ∈ S.leafPaths) : e.1 < t.nsyms :=
  List.mem_range.1 (h.leaves.subset (List.mem_map_of_mem he))

/-- A symbol with a code is a leaf's, and its code the leaf's path. -/
theorem leaf_of_code (h : CodeTree t S) {x : Nat} (hx : Sparse.get [] (buildTable t) x ≠ []) :
    ∃ i, (i, Sparse.get [] (buildTable t) x) ∈ S.leafPaths ∧ (nodeAt t.node i).sym = x := by
  by_cases hleaf : ∃ i < t.nsyms, (nodeAt t.node i).sym = x
  · obtain ⟨i, hi, rfl⟩ := hleaf
    obtain ⟨path, hpath⟩ := h.exists_path hi
    exact ⟨i, by rw [h.code _ hpath]; exact hpath, rfl⟩
  · exact absurd (h.absent x fun i hi hsym => hleaf ⟨i, hi, hsym⟩) hx

theorem code_ne_nil (h : CodeTree t S) {i : Nat} (hi : i < t.nsyms) :
    Sparse.get [] (buildTable t) (nodeAt t.node i).sym ≠ [] := by
  obtain ⟨path, hpath⟩ := h.exists_path hi
  rw [h.code _ hpath]
  exact h.nonempty _ hpath

theorem length_path_le (h : CodeTree t S) {e : Nat × List Bool} (he : e ∈ S.leafPaths) : e.2.length ≤ t.nsyms - 1 := by
  have hlt := S.length_path_lt e he
  rw [h.leaves.length_eq, List.length_range] at hlt
  exact Nat.le_sub_one_of_lt hlt

theorem isPrefixOf_eq_false (h : CodeTree t S) {x y : Nat} (hxy : x ≠ y) (hx : Sparse.get [] (buildTable t) x ≠ []) :
    (Sparse.get [] (buildTable t) x).isPrefixOf (Sparse.get [] (buildTable t) y) = false := by
  rw [Bool.eq_false_iff, Ne, List.isPrefixOf_iff_prefix]
  intro hprefix
  obtain ⟨i, hi, hsymx⟩ := h.leaf_of_code hx
  obtain ⟨j, hj, hsymy⟩ := h.leaf_of_code (x := y) fun hy =>
    hx (List.prefix_nil.1 (hprefix.trans (List.prefix_nil.2 hy)))
  have same : i = j := congrArg Prod.fst (S.eq_of_isPrefix hi hj hprefix)
  exact hxy (by rw [← hsymx, ← hsymy, same])

end CodeTree

/-- Settles O38: the leaves' paths of the shape are the bit paths of the arena. -/
theorem buildtableRecordsTheLeafPaths : Obligations.BuildtableRecordsTheLeafPaths := by
  intro s ⟨_, _, hshape⟩ hkind
  obtain ⟨S, hS⟩ := exists_codeTree hshape hkind
  refine ⟨_, exec_buildtable s, fun x path hpath => ⟨?code, ?leaf⟩⟩
  case code =>
    rintro rfl
    obtain ⟨i, hi, hsym⟩ := hS.leaf_of_code hpath
    exact ⟨i, hS.lt hi, hsym, (hS.spans.mem_leafPaths.1 hi).1⟩
  case leaf =>
    rintro ⟨i, hi, rfl, hdescend⟩
    obtain ⟨-, -, hleaf, -⟩ := hshape
    exact hS.code (i, path) (hS.spans.mem_leafPaths.2 ⟨hdescend, (hleaf i hi).1⟩)

/-- Settles O39: the properties of the shape's leaf paths, read through the table. -/
theorem codesArePrefixFreeAndComplete : Obligations.CodesArePrefixFreeAndComplete := by
  intro s ⟨_, _, hshape⟩ hkind
  obtain ⟨S, hS⟩ := exists_codeTree hshape hkind
  have code {e : Nat × List Bool} (he : e ∈ S.leafPaths) :
      State.codeAt { s with ct := buildTable s.tree } (s.nodeAt e.1).sym = e.2 := hS.code e he
  refine ⟨_, exec_buildtable s, fun x => ⟨fun hx => ?_, ?_⟩, fun i hi => ?_, fun x y => hS.isPrefixOf_eq_false, ?kraft⟩
  · obtain ⟨i, hi, hsym⟩ := hS.leaf_of_code hx
    exact ⟨i, hS.lt hi, hsym⟩
  · rintro ⟨i, hi, rfl⟩
    exact hS.code_ne_nil hi
  · obtain ⟨path, hpath⟩ := hS.exists_path hi
    exact (congrArg List.length (code hpath)).trans_le (hS.length_path_le hpath)
  case kraft =>
    obtain ⟨-, hle, -⟩ := hshape
    have fits {e : Nat × List Bool} (he : e ∈ S.leafPaths) : e.2.length ≤ s.cfg.maxCode :=
      (hS.length_path_le he).trans (Nat.sub_le_sub_right hle 1)
    rw [← (hS.leaves.map _).sum_eq, Shape.leaves, List.map_map, ← S.kraft_sum fun e he => fits he]
    refine congrArg List.sum (List.map_congr_left fun e he => ?_)
    exact congrArg (fun path : List Bool => 2 ^ (s.cfg.maxCode - path.length)) (code he)

/-! ### The table's invariant -/

/-- TableInv, of the parameters and the table alone. -/
def TableOk (c : Config) (ct : Sparse (List Bool)) : Prop :=
  Sparse.wf [] ct ∧ Sparse.below c.nsym ct ∧ (∀ e ∈ ct, e.2.length ≤ c.maxCode) ∧ PrefixFree ct

theorem tableOk_nil (c : Config) : TableOk c [] := tableInv_of_nil (s := { State.reset with cfg := c }) rfl

theorem tableOk_singleton {c : Config} {x : Nat} (hx : x < c.nsym) : TableOk c [(x, [true])] := by
  have hcode : 1 ≤ c.maxCode := by rw [Config.maxCode, Config.nsym, Config.symBits]; cases c.symW <;> decide
  refine ⟨⟨List.pairwise_singleton _ _, ?_⟩, ?_, ?_, ?_⟩
  · exact List.forall_mem_singleton.2 nofun
  · exact List.forall_mem_singleton.2 hx
  · exact List.forall_mem_singleton.2 hcode
  · exact List.forall_mem_singleton.2 (List.forall_mem_singleton.2 fun hne => absurd rfl hne)

theorem tableOk_of_normal {c : Config} {t : Tree} (h : TreeShape c t) (hkind : t.kind = .normal) :
    TableOk c (buildTable t) := by
  obtain ⟨S, hS⟩ := exists_codeTree h hkind
  obtain ⟨-, hle, hleaf, -⟩ := h
  have entry {e : Nat × List Bool} (he : e ∈ buildTable t) :
      Sparse.get [] (buildTable t) e.1 = e.2 ∧ e.2 ≠ [] :=
    ⟨Sparse.get_of_mem [] _ hS.wf e he, hS.wf.2 e he⟩
  have leaf {e : Nat × List Bool} (he : e ∈ buildTable t) :
      ∃ i, (i, e.2) ∈ S.leafPaths ∧ (nodeAt t.node i).sym = e.1 := by
    obtain ⟨hget, hne⟩ := entry he
    exact hget ▸ hS.leaf_of_code (hget ▸ hne)
  refine ⟨hS.wf, fun e he => ?_, fun e he => ?_, fun e he f hf hne => ?_⟩
  · obtain ⟨i, hi, hsym⟩ := leaf he
    obtain ⟨-, hlt, -⟩ := hleaf i (hS.lt hi)
    exact hsym ▸ hlt
  · obtain ⟨i, hi, -⟩ := leaf he
    exact (hS.length_path_le hi).trans (Nat.sub_le_sub_right hle 1)
  · obtain ⟨hgete, hnee⟩ := entry he
    obtain ⟨hgetf, -⟩ := entry hf
    rw [← hgete, ← hgetf]
    exact hS.isPrefixOf_eq_false hne (hgete ▸ hnee)

theorem tableOk_buildTable {c : Config} {t : Tree} (h : TreeShape c t) : TableOk c (buildTable t) := by
  cases hkind : t.kind with
  | normal => exact tableOk_of_normal h hkind
  | empty => rw [buildTable_of_empty hkind]; exact tableOk_nil c
  | degen =>
    obtain ⟨⟨-, hregs, -⟩, -⟩ := id h
    obtain ⟨-, hnodes, hroot⟩ := hregs hkind
    rw [buildTable_of_degen hkind]
    exact tableOk_singleton (sym_lt_of_treeShape h (by omega))

/-- Settles O57: BUILDTABLE reads a tree and makes a table of it; no other command but CLEAR touches the table. -/
theorem theCodeTableStaysPrefixFree : Obligations.TheCodeTableStaysPrefixFree := by
  intro s t htree htable h
  have kept := step_keeps_tables (P := fun c t ct => TreeOk c t ∧ TableOk c ct)
    (fun c => ⟨treeOk_reset c, tableOk_nil c⟩) (fun u hu => ⟨treeOk_buildTree hu.1, hu.2⟩) (fun u hu => ?table)
    ⟨htree, htable⟩ h
  · exact kept.2
  case table =>
    obtain ⟨⟨-, -, hshape⟩, -⟩ := id hu
    exact ⟨hu.1, tableOk_buildTable hshape⟩

/-! ### Codes spell their symbols -/

namespace Spans

variable {m : Sparse Node} {p : Nat} {S : Shape}

theorem leafPaths_of_leaf (h : Spans m p S) (hleaf : (nodeAt m p).leaf = true) : S.leafPaths = [(p, [])] := by
  cases h with
  | leaf _ => rfl
  | node hnot _ _ _ _ => exact absurd (hnot.symm.trans hleaf) Bool.false_ne_true

/-- A leaf's path under an inner node, followed by other bits, spells the leaf's symbol and then what those spell from
the root. -/
theorem decodeBits_path (h : Spans m p S) (hleaf : (nodeAt m p).leaf = false) (r : Nat) {i : Nat} {path : List Bool}
    (hpath : (i, path) ∈ S.leafPaths) (rest : List Bool) :
    decodeBits m r p (path ++ rest) = (nodeAt m i).sym :: decodeBits m r r rest := by
  induction h generalizing path with
  | leaf his => exact absurd (hleaf.symm.trans his) Bool.false_ne_true
  | @node p l r' _ _ _ hl hr ihl ihr =>
    have child {q : Nat} {S' : Shape} (hq : Spans m q S') {path' : List Bool} (hmem : (i, path') ∈ S'.leafPaths)
        (ih : (nodeAt m q).leaf = false →
          decodeBits m r q (path' ++ rest) = (nodeAt m i).sym :: decodeBits m r r rest) :
        (if (nodeAt m q).leaf then (nodeAt m q).sym :: decodeBits m r r (path' ++ rest)
          else decodeBits m r q (path' ++ rest)) = (nodeAt m i).sym :: decodeBits m r r rest := by
      split_ifs with hq_leaf
      · rw [hq.leafPaths_of_leaf hq_leaf, List.mem_singleton, Prod.mk.injEq] at hmem
        obtain ⟨rfl, rfl⟩ := hmem
        rfl
      · exact ih (Bool.eq_false_iff.2 hq_leaf)
    rcases Shape.mem_leafPaths_node.1 hpath with ⟨q, hq, rfl⟩ | ⟨q, hq, rfl⟩
    · exact child hl hq fun hnot => ihl hnot hq
    · exact child hr hq fun hnot => ihr hnot hq

/-- A proper beginning of a leaf's path spells nothing. -/
theorem decodeBits_of_prefix (h : Spans m p S) (r : Nat) {i : Nat} {path rest : List Bool} (hrest : rest ≠ [])
    (hpath : (i, path ++ rest) ∈ S.leafPaths) : decodeBits m r p path = [] := by
  induction h generalizing path with
  | leaf _ =>
    have hempty : path ++ rest = [] := congrArg Prod.snd (List.mem_singleton.1 hpath)
    exact absurd (List.append_eq_nil_iff.1 hempty).2 hrest
  | @node p l r' _ _ _ hl hr ihl ihr =>
    have child {q : Nat} {S' : Shape} (hq : Spans m q S') {path' : List Bool} (hmem : (i, path' ++ rest) ∈ S'.leafPaths)
        (ih : decodeBits m r q path' = []) :
        (if (nodeAt m q).leaf then (nodeAt m q).sym :: decodeBits m r r path' else decodeBits m r q path') = [] := by
      split_ifs with hq_leaf
      · rw [hq.leafPaths_of_leaf hq_leaf, List.mem_singleton, Prod.mk.injEq, List.append_eq_nil_iff] at hmem
        exact absurd hmem.2.2 hrest
      · exact ih
    cases path with
    | nil => rfl
    | cons b path =>
      rcases Shape.mem_leafPaths_node.1 hpath with ⟨q, hq, heq⟩ | ⟨q, hq, heq⟩ <;>
        obtain ⟨rfl, rfl⟩ := List.cons.inj heq
      · exact child hl hq (ihl hq)
      · exact child hr hq (ihr hq)

end Spans

namespace CodeTree

variable {t : Tree} {S : Shape}

/-- Code words spell their symbols, whatever follows. -/
theorem decodeBits_codes (h : CodeTree t S) (hroot : (nodeAt t.node t.root).leaf = false) {xs : List Nat}
    (hxs : ∀ x ∈ xs, Sparse.get [] (buildTable t) x ≠ []) (rest : List Bool) :
    decodeBits t.node t.root t.root (xs.flatMap (Sparse.get [] (buildTable t)) ++ rest) =
      xs ++ decodeBits t.node t.root t.root rest := by
  induction xs with
  | nil => rfl
  | cons x xs ih =>
    obtain ⟨hx, hxs⟩ := List.forall_mem_cons.1 hxs
    obtain ⟨i, hi, hsym⟩ := h.leaf_of_code hx
    rw [List.flatMap_cons, List.append_assoc, h.spans.decodeBits_path hroot _ hi, ih hxs, hsym]
    rfl

/-- Zeros spell the symbol of the code of `l` zeros once every `l` bits (45_decode.md R305). -/
theorem decodeBits_zeros (h : CodeTree t S) (hroot : (nodeAt t.node t.root).leaf = false) {x l : Nat} (hl : l ≠ 0)
    (hx : Sparse.get [] (buildTable t) x = List.replicate l false) (p : Nat) :
    decodeBits t.node t.root t.root (List.replicate p false) = List.replicate (p / l) x := by
  have hcode : Sparse.get [] (buildTable t) x ≠ [] := by
    rw [hx]
    exact List.replicate_eq_nil_iff .. |>.not.2 hl
  obtain ⟨i, hi, hsym⟩ := h.leaf_of_code hcode
  rw [hx] at hi
  induction p using Nat.strong_induction_on with
  | _ p ih =>
    rcases Nat.lt_or_ge p l with hlt | hge
    · rw [Nat.div_eq_of_lt hlt]
      refine h.spans.decodeBits_of_prefix t.root (rest := List.replicate (l - p) false) ?_ (i := i) ?_
      · exact List.replicate_eq_nil_iff .. |>.not.2 (by omega)
      · rwa [List.replicate_append_replicate, Nat.add_sub_cancel' hlt.le]
    · have split : List.replicate p false = List.replicate l false ++ List.replicate (p - l) false := by
        rw [List.replicate_append_replicate, Nat.add_sub_cancel' hge]
      rw [split, h.spans.decodeBits_path hroot _ hi, ih (p - l) (by omega), hsym,
        Nat.div_eq_sub_div (Nat.pos_of_ne_zero hl) hge, List.replicate_succ]

end CodeTree

theorem decodedSyms_of_normal {t : Tree} (h : t.kind = .normal) (bits : List Bool) :
    decodedSyms t bits = decodeBits t.node t.root t.root bits := by
  simp only [decodedSyms, h]

/-- Settles O48: the codes spell their symbols, and the padding is read as zeros. -/
theorem paddingSpellsExtraSymbols : Obligations.PaddingSpellsExtraSymbols := by
  intro s t xs p l0 x0 ⟨_, _, hshape⟩ hkind hexec hxs hx0 hl0
  obtain ⟨S, hS⟩ := exists_codeTree hshape hkind
  have hroot := (root_leaf hshape).1 hkind
  cases hexec
  rw [decodedSyms_of_normal hkind, decodedSyms_of_normal hkind]
  have codes := hS.decodeBits_codes hroot hxs
  have exact_codes := codes []
  rw [List.append_nil] at exact_codes
  refine ⟨(codes _).trans (by rw [hS.decodeBits_zeros hroot hl0 hx0]), exact_codes.trans (List.append_nil xs)⟩

end Sys2Proof.Machine
end

section
/-! Code lengths that meet Kraft's inequality, and what merging the two least weights does to them: the step of
Huffman's optimality proof (42_tree.md R227). -/

namespace Sys2Proof.Machine

open Finset

/-- The lengths `l` on the set `F` meet Kraft's inequality, scaled to 2^n. -/
def Kraft (F : Finset Nat) (l : Nat → Nat) (n : Nat) : Prop :=
  (∀ i ∈ F, l i ≤ n) ∧ ∑ i ∈ F, 2 ^ (n - l i) ≤ 2 ^ n

/-- The total length of the weights `w`. -/
def cost (F : Finset Nat) (w l : Nat → Nat) : Nat := ∑ i ∈ F, w i * l i

section
variable {F : Finset Nat} {w l : Nat → Nat} {n a b x : Nat}

theorem swap_mem (ha : a ∈ F) (hx : x ∈ F) {i : Nat} (hi : i ∈ F) : Equiv.swap a x i ∈ F := by
  rw [Equiv.swap_apply_def]
  split_ifs
  · exact hx
  · exact ha
  · exact hi

theorem kraft_swap (ha : a ∈ F) (hx : x ∈ F) (h : Kraft F l n) : Kraft F (l ∘ Equiv.swap a x) n := by
  obtain ⟨hle, hsum⟩ := h
  have moved : {i | Equiv.swap a x i ≠ i} ⊆ (F : Set Nat) := fun i hi => by
    rcases (Equiv.swap_apply_ne_self_iff.1 hi).2 with rfl | rfl
    · exact ha
    · exact hx
  exact ⟨fun i hi => hle _ (swap_mem ha hx hi), (Equiv.Perm.sum_comp _ F (fun i => 2 ^ (n - l i)) moved).trans_le hsum⟩

/-- Giving the longer of two codes to the smaller weight does not cost more. -/
theorem cost_swap_le (ha : a ∈ F) (hx : x ∈ F) (hw : w a ≤ w x) (hl : l a ≤ l x) :
    cost F w (l ∘ Equiv.swap a x) ≤ cost F w l := by
  by_cases hax : a = x
  · subst hax
    rw [Equiv.swap_self]
    exact le_refl _
  have split (f : Nat → Nat) : ∑ i ∈ F, f i = f a + (f x + ∑ i ∈ (F.erase a).erase x, f i) := by
    rw [add_sum_erase _ _ (mem_erase.2 ⟨Ne.symm hax, hx⟩), add_sum_erase _ _ ha]
  have rest : ∑ i ∈ (F.erase a).erase x, w i * (l ∘ Equiv.swap a x) i = ∑ i ∈ (F.erase a).erase x, w i * l i := by
    refine sum_congr rfl fun i hi => ?_
    obtain ⟨hix, hia⟩ := mem_erase.1 hi
    rw [Function.comp_apply, Equiv.swap_apply_of_ne_of_ne (ne_of_mem_erase hia) hix]
  rw [cost, cost, split, split, rest]
  simp only [Function.comp_apply, Equiv.swap_apply_left, Equiv.swap_apply_right]
  obtain ⟨d, hd⟩ := Nat.exists_eq_add_of_le hw
  obtain ⟨e, he⟩ := Nat.exists_eq_add_of_le hl
  rw [hd, he]
  nlinarith only [Nat.zero_le (d * e)]

/-- Lengths that cost no more exist in which the two least weights have the two longest codes. -/
theorem exists_least_longest (ha : a ∈ F) (hb : b ∈ F) (hab : a ≠ b) (hwa : ∀ i ∈ F, w a ≤ w i)
    (hwb : ∀ i ∈ F, i ≠ a → w b ≤ w i) (h : Kraft F l n) :
    ∃ l', Kraft F l' n ∧ cost F w l' ≤ cost F w l ∧ l' b ≤ l' a ∧ ∀ i ∈ F.erase a, l' i ≤ l' b := by
  obtain ⟨x, hx, hmax⟩ := F.exists_max_image l ⟨a, ha⟩
  have hb' : b ∈ F.erase a := mem_erase.2 ⟨Ne.symm hab, hb⟩
  obtain ⟨y, hy, hmax'⟩ := (F.erase a).exists_max_image (l ∘ Equiv.swap a x) ⟨b, hb'⟩
  obtain ⟨hya, hyF⟩ := mem_erase.1 hy
  have at_b : ((l ∘ Equiv.swap a x) ∘ Equiv.swap b y) b = (l ∘ Equiv.swap a x) y :=
    congrArg (l ∘ Equiv.swap a x) (Equiv.swap_apply_left b y)
  have at_a : ((l ∘ Equiv.swap a x) ∘ Equiv.swap b y) a = l x := by
    simp only [Function.comp_apply, Equiv.swap_apply_of_ne_of_ne hab hya.symm, Equiv.swap_apply_left]
  refine ⟨(l ∘ Equiv.swap a x) ∘ Equiv.swap b y, kraft_swap hb hyF (kraft_swap ha hx h),
    (cost_swap_le hb hyF (hwb y hyF hya) (hmax' b hb')).trans (cost_swap_le ha hx (hwa x hx) (hmax a ha)), ?_,
    fun i hi => ?_⟩
  · rw [at_a, at_b]
    exact hmax _ (swap_mem ha hx hyF)
  · rw [at_b]
    exact hmax' _ (swap_mem hb' hy hi)

/-- The longest of a set of codes may be cut down to the second longest: the others fill a whole number of its nodes. -/
theorem kraft_sum_lt {m : Nat} (ha : a ∈ F) (h : Kraft F l n) (hm : ∀ i ∈ F.erase a, l i ≤ m) (hmn : m ≤ n) :
    ∑ i ∈ F.erase a, 2 ^ (m - l i) < 2 ^ m := by
  obtain ⟨hle, hsum⟩ := h
  have scaled : ∑ i ∈ F.erase a, 2 ^ (n - l i) = 2 ^ (n - m) * ∑ i ∈ F.erase a, 2 ^ (m - l i) := by
    rw [mul_sum]
    refine sum_congr rfl fun i hi => ?_
    have := hm i hi
    rw [← pow_add]
    congr 1
    omega
  rw [← add_sum_erase _ _ ha, scaled] at hsum
  have hpos : 0 < 2 ^ (n - l a) := Nat.two_pow_pos _
  refine Nat.lt_of_mul_lt_mul_left (a := 2 ^ (n - m)) ?_
  rw [← pow_add, Nat.sub_add_cancel hmn]
  omega

/-- Merging the two least weights `a` and `b` into `k`: the merged set has lengths that cost less by the weight of
`k`. -/
theorem exists_merged {k : Nat} (ha : a ∈ F) (hb : b ∈ F) (hab : a ≠ b) (hk : k ∉ F) (hwk : w k = w a + w b)
    (hwa : ∀ i ∈ F, w a ≤ w i) (hwb : ∀ i ∈ F, i ≠ a → w b ≤ w i) (h : Kraft F l n) :
    ∃ l' n', Kraft (insert k ((F.erase a).erase b)) l' n' ∧
      cost (insert k ((F.erase a).erase b)) w l' + w k ≤ cost F w l := by
  obtain ⟨l1, hkraft, hcost, hba, hlongest⟩ := exists_least_longest ha hb hab hwa hwb h
  have hb' : b ∈ F.erase a := mem_erase.2 ⟨Ne.symm hab, hb⟩
  have hlt := kraft_sum_lt ha hkraft hlongest (hkraft.1 b hb)
  have hk' : k ∉ (F.erase a).erase b := fun hmem => hk (mem_of_mem_erase (mem_of_mem_erase hmem))
  rw [← add_sum_erase _ _ hb', Nat.sub_self, pow_zero] at hlt
  have hpos : l1 b ≠ 0 := fun h0 => by rw [h0, pow_zero] at hlt; omega
  obtain ⟨c, hc⟩ := Nat.exists_eq_succ_of_ne_zero hpos
  have other {i : Nat} (hi : i ∈ (F.erase a).erase b) : Function.update l1 k c i = l1 i :=
    Function.update_of_ne (by rintro rfl; exact hk' hi) c l1
  refine ⟨Function.update l1 k c, l1 b, ⟨fun i hi => ?fits, ?kraft⟩, ?cost⟩
  case fits =>
    rcases mem_insert.1 hi with rfl | hi
    · rw [Function.update_self, hc]
      exact Nat.le_succ c
    · rw [other hi]
      exact hlongest i (mem_of_mem_erase hi)
  case kraft =>
    rw [sum_insert hk', Function.update_self, sum_congr rfl fun i hi => by rw [other hi]]
    have one : l1 b - c = 1 := by omega
    rw [one]
    omega
  case cost =>
    refine le_trans ?_ hcost
    rw [cost, cost, sum_insert hk', Function.update_self, sum_congr rfl fun i hi => by rw [other hi],
      ← add_sum_erase _ _ ha, ← add_sum_erase _ _ hb', hwk]
    have longer := Nat.mul_le_mul_left (w a) hba
    rw [hc] at longer ⊢
    linarith only [longer]

end

/-! ### Prefix-free codes meet Kraft's inequality -/

theorem uniquelyDecodable_of_prefixFree {C : Set (List Bool)} (hne : [] ∉ C)
    (h : ∀ c ∈ C, ∀ d ∈ C, c <+: d → c = d) : InformationTheory.UniquelyDecodable C := by
  intro L1
  induction L1 with
  | nil =>
    intro L2 _ h2 heq
    cases L2 with
    | nil => rfl
    | cons d L2 =>
      have hd : d = [] := (List.append_eq_nil_iff.1 heq.symm).1
      exact absurd (hd ▸ h2 d List.mem_cons_self) hne
  | cons c L1 ih =>
    intro L2 h1 h2 heq
    cases L2 with
    | nil =>
      have hc : c = [] := (List.append_eq_nil_iff.1 heq).1
      exact absurd (hc ▸ h1 c List.mem_cons_self) hne
    | cons d L2 =>
      obtain ⟨hc, h1'⟩ := List.forall_mem_cons.1 h1
      obtain ⟨hd, h2'⟩ := List.forall_mem_cons.1 h2
      rw [List.flatten_cons, List.flatten_cons] at heq
      have same : c = d := by
        rcases List.prefix_or_prefix_of_prefix (List.prefix_append c L1.flatten) (heq ▸ List.prefix_append d L2.flatten)
          with hcd | hdc
        · exact h c hc d hd hcd
        · exact (h d hd c hc hdc).symm
      subst same
      rw [ih L2 h1' h2' (List.append_cancel_left heq)]

theorem kraft_of_prefixFree {F : Finset Nat} {code : Nat → List Bool} (hF : 1 < F.card)
    (h : ∀ i ∈ F, ∀ j ∈ F, i ≠ j → ¬ code i <+: code j) : ∃ n, Kraft F (fun i => (code i).length) n := by
  have hinj : Set.InjOn code F := fun i hi j hj hij => by
    by_contra hne
    exact h i hi j hj hne (hij ▸ List.prefix_refl _)
  have decodable : InformationTheory.UniquelyDecodable ((F.image code : Finset (List Bool)) : Set (List Bool)) := by
    refine uniquelyDecodable_of_prefixFree (fun hmem => ?_) fun c hc d hd hcd => ?_
    · obtain ⟨i, hi, hempty⟩ := mem_image.1 (mem_coe.1 hmem)
      obtain ⟨j, hj, hji⟩ := exists_mem_ne hF i
      exact h i hi j hj hji.symm (hempty ▸ List.nil_prefix)
    · obtain ⟨i, hi, rfl⟩ := mem_image.1 (mem_coe.1 hc)
      obtain ⟨j, hj, rfl⟩ := mem_image.1 (mem_coe.1 hd)
      by_contra hne
      exact h i hi j hj (fun e => hne (congrArg code e)) hcd
  have bound := InformationTheory.kraft_mcmillan_inequality decodable
  rw [sum_image hinj, Fintype.card_bool] at bound
  refine ⟨F.sup fun i => (code i).length, fun i hi => le_sup (f := fun i => (code i).length) hi, ?_⟩
  have scaled : ((∑ i ∈ F, 2 ^ (F.sup (fun i => (code i).length) - (code i).length) : Nat) : ℝ) =
      2 ^ F.sup (fun i => (code i).length) * ∑ i ∈ F, (1 / (2 : Nat) : ℝ) ^ (code i).length := by
    rw [Nat.cast_sum, mul_sum]
    refine sum_congr rfl fun i hi => ?_
    rw [Nat.cast_pow, Nat.cast_ofNat, pow_sub₀ _ two_ne_zero (le_sup (f := fun i => (code i).length) hi), one_div,
      inv_pow]
  have : ((∑ i ∈ F, 2 ^ (F.sup (fun i => (code i).length) - (code i).length) : Nat) : ℝ) ≤
      ((2 ^ F.sup (fun i => (code i).length) : Nat) : ℝ) := by
    rw [scaled, Nat.cast_pow, Nat.cast_ofNat]
    exact mul_le_of_le_one_right (by positivity) bound
  exact Nat.cast_le.1 this

end Sys2Proof.Machine
end

section
/-! The greedy tree's code is optimal (42_tree.md R227): every merge lowers the least total length by the weight it
makes. -/

namespace Sys2Proof.Machine

open Finset

/-- The priority collection just before node `k` is made (42_tree.md R222). -/
def collection (m : Sparse Node) (n k : Nat) : Finset Nat := (range k).filter fun j => inQueue m n k j

section
variable {m : Sparse Node} {n k : Nat}

theorem mem_collection {j : Nat} : j ∈ collection m n k ↔ inQueue m n k j := by
  rw [collection, mem_filter, mem_range]
  exact ⟨And.right, fun h => ⟨h.1, h⟩⟩

theorem collection_seeded (m : Sparse Node) (n : Nat) : collection m n n = range n := by
  ext j
  rw [mem_collection, mem_range]
  exact ⟨And.left, fun hj => ⟨hj, fun k' hk' hle => absurd hle (Nat.not_le.2 hk')⟩⟩

theorem collection_succ (hle : n ≤ k) (hint : ∀ k' < k + 1, n ≤ k' → InternalOk m k') :
    collection m n (k + 1) = insert k (((collection m n k).erase (nodeAt m k).left).erase (nodeAt m k).right) := by
  ext j
  have lower := fun k' (hk' : k' < k + 1) (hle : n ≤ k') => by
    obtain ⟨-, -, hl, hr, -⟩ := hint k' hk' hle
    exact And.intro hl hr
  rw [mem_collection, inQueue_succ hle lower, mem_insert, mem_erase, mem_erase, mem_collection, childOf, not_or]
  exact or_congr_right ⟨fun ⟨hin, hl, hr⟩ => ⟨Ne.symm hr, Ne.symm hl, hin⟩,
    fun ⟨hr, hl, hin⟩ => ⟨hin, Ne.symm hl, Ne.symm hr⟩⟩

/-- Any lengths for the collection cost at least the weights of the merges still to come. -/
theorem sum_weights_le_cost {d : Nat} (hle : n ≤ k) (hint : ∀ k' < k + d, n ≤ k' → InternalOk m k')
    (hgreedy : ∀ k' < k + d, n ≤ k' → GreedyAt m n k') {l : Nat → Nat} {L : Nat} (h : Kraft (collection m n k) l L) :
    ∑ j ∈ Ico k (k + d), (nodeAt m j).w ≤ cost (collection m n k) (fun j => (nodeAt m j).w) l := by
  induction d generalizing k l L with
  | zero => rw [Nat.add_zero, Ico_self, sum_empty]; exact Nat.zero_le _
  | succ d ih =>
    obtain ⟨ha, hb, hab, hrest⟩ := hgreedy k (by omega) hle
    obtain ⟨-, -, hlt, -, hne, hweight⟩ := hint k (by omega) hle
    have later := collection_succ hle fun k' hk' => hint k' (by omega)
    have least {i : Nat} (hi : i ∈ collection m n k) (hia : i ≠ (nodeAt m k).left) (hib : i ≠ (nodeAt m k).right) :=
      (keyLt_iff m _ _).1 (hrest i (mem_collection.1 hi).1 (mem_collection.1 hi) hia hib)
    rw [keyLt_iff] at hab
    have second : ∀ i ∈ collection m n k, i ≠ (nodeAt m k).left → (nodeAt m (nodeAt m k).right).w ≤ (nodeAt m i).w := by
      intro i hi hia
      by_cases hib : i = (nodeAt m k).right
      · rw [hib]
      · have := least hi hia hib
        omega
    have first : ∀ i ∈ collection m n k, (nodeAt m (nodeAt m k).left).w ≤ (nodeAt m i).w := by
      intro i hi
      by_cases hia : i = (nodeAt m k).left
      · rw [hia]
      · have := second i hi hia
        omega
    obtain ⟨l', L', hkraft, hcost⟩ := exists_merged (w := fun j => (nodeAt m j).w) (mem_collection.2 ha)
      (mem_collection.2 hb) hne (fun hk => absurd (mem_collection.1 hk).1 k.lt_irrefl) hweight first second h
    rw [← later] at hkraft hcost
    have rest := ih (k := k + 1) (by omega) (fun k' hk' => hint k' (by omega)) (fun k' hk' => hgreedy k' (by omega))
      hkraft
    have bound : k + 1 + d = k + (d + 1) := by omega
    rw [bound] at rest
    rw [sum_eq_sum_Ico_succ_bot (by omega)]
    omega

end

/-! ### The cost of the tree's own code -/

namespace Spans

variable {m : Sparse Node} {p : Nat} {S : Shape}

theorem sum_leaf_weights (h : Spans m p S) (hsum : ∀ k ≤ p, (nodeAt m k).leaf = false →
    (nodeAt m k).w = (nodeAt m (nodeAt m k).left).w + (nodeAt m (nodeAt m k).right).w) :
    (S.leafPaths.map fun e => (nodeAt m e.1).w).sum = (nodeAt m p).w := by
  induction h with
  | leaf => rfl
  | @node p l r hleaf hlt hrt _ _ ihl ihr =>
    rw [hsum p (le_refl p) hleaf, ← ihl fun k hk => hsum k (hk.trans hlt.le),
      ← ihr fun k hk => hsum k (hk.trans hrt.le)]
    simp only [Shape.leafPaths, List.map_append, List.map_map, List.sum_append]
    rfl

/-- The code of a tree costs the weights of its inner nodes. -/
theorem sum_paths (h : Spans m p S) (hsum : ∀ k ≤ p, (nodeAt m k).leaf = false →
    (nodeAt m k).w = (nodeAt m (nodeAt m k).left).w + (nodeAt m (nodeAt m k).right).w) :
    (S.leafPaths.map fun e => (nodeAt m e.1).w * e.2.length).sum =
      (S.nodes.map fun k => if (nodeAt m k).leaf then 0 else (nodeAt m k).w).sum := by
  induction h with
  | leaf hleaf => simp [Shape.leafPaths, Shape.nodes, hleaf]
  | @node p l r hleaf hlt hrt hl hr ihl ihr =>
    have lower := fun k (hk : k ≤ (nodeAt m p).left) => hsum k (hk.trans hlt.le)
    have upper := fun k (hk : k ≤ (nodeAt m p).right) => hsum k (hk.trans hrt.le)
    have weight := hsum p (le_refl p) hleaf
    rw [← hl.sum_leaf_weights lower, ← hr.sum_leaf_weights upper] at weight
    simp only [Shape.leafPaths, Shape.nodes, List.map_append, List.map_map, List.sum_append, List.map_cons,
      List.sum_cons,
      Function.comp_def, List.length_cons, Nat.mul_succ, List.sum_map_add, ihl lower, ihr upper, hleaf, weight]
    simp only [Bool.false_eq_true, if_false]
    omega

end Spans

/-! ### Total length over the counts -/

theorem sum_map_filter {l : List Nat} {p : Nat → Bool} {f : Nat → Nat} (h : ∀ x ∈ l, p x = false → f x = 0) :
    ((l.filter p).map f).sum = (l.map f).sum := by
  induction l with
  | nil => rfl
  | cons x l ih =>
    obtain ⟨hx, hl⟩ := List.forall_mem_cons.1 h
    rw [List.map_cons, List.sum_cons, ← ih hl]
    cases hp : p x with
    | true => rw [List.filter_cons_of_pos hp, List.map_cons, List.sum_cons]
    | false => rw [List.filter_cons_of_neg (by rw [hp]; exact Bool.false_ne_true), hx hp, Nat.zero_add]

/-- The total length over the counts is the cost of the leaves' codes. -/
theorem codedLength_eq {n : Nat} {hist : Sparse Word} {t : Tree} (h : LeavesFrom n hist t) (code : Nat → List Bool) :
    codedLength n hist code =
      cost (range t.nsyms) (fun i => (nodeAt t.node i).w) (fun i => (code (nodeAt t.node i).sym).length) := by
  obtain ⟨hsyms, hweights⟩ := h
  have present : codedLength n hist code =
      (((List.range n).filter fun x => Sparse.get 0 hist x ≠ 0).map fun x =>
        (Sparse.get 0 hist x).toNat * (code x).length).sum :=
    (sum_map_filter fun x _ hx => by
      rw [of_not_not (of_decide_eq_false hx)]
      exact Nat.zero_mul _).symm
  rw [present, ← hsyms, List.map_map]
  refine congrArg List.sum (List.map_congr_left fun i hi => ?_)
  exact congrArg (· * (code (nodeAt t.node i).sym).length) (hweights i (List.mem_range.1 hi)).symm

theorem buildTree_of_normal {s : State} (hwf : Sparse.wf Node.zero s.tree.node) (hkind : (buildTree s).kind = .normal) :
    TreeShape s.cfg (buildTree s) ∧ LeavesFrom s.cfg.nsym s.hist (buildTree s) ∧ GreedyMerges (buildTree s) := by
  have hn : 2 ≤ (presentSyms s).length := by
    rcases hlen : presentSyms s with _ | ⟨x, _ | ⟨y, ys⟩⟩
    · rw [buildTree_of_none hlen] at hkind
      cases hkind
    · rw [buildTree_of_one hlen] at hkind
      cases hkind
    · exact Nat.le_add_left 2 _
  obtain ⟨m, htree, forest⟩ := forest_buildTree hwf hn
  rw [htree]
  exact ⟨treeShape_of_forest hwf hn forest, leavesFrom_of_forest hwf forest rfl rfl, forest.greedy⟩

theorem internalOk_of_not_leaf {c : Config} {t : Tree} (h : TreeShape c t) {k : Nat} (hk : k < t.nnodes)
    (hleaf : (nodeAt t.node k).leaf = false) : InternalOk t.node k :=
  (leafOk_or_internalOk h hk).resolve_left fun hok => absurd (hleaf.symm.trans hok.1) Bool.false_ne_true

/-- The built table costs the weights of all merges. -/
theorem cost_buildTable {c : Config} {t : Tree} (h : TreeShape c t) (hkind : t.kind = .normal) :
    cost (range t.nsyms) (fun i => (nodeAt t.node i).w)
        (fun i => (Sparse.get [] (buildTable t) (nodeAt t.node i).sym).length) =
      ∑ k ∈ Ico t.nsyms t.nnodes, (nodeAt t.node k).w := by
  obtain ⟨S, hS⟩ := exists_codeTree h hkind
  obtain ⟨⟨-, -, hregs⟩, -⟩ := id h
  obtain ⟨hn, hnodes, hroot⟩ := hregs hkind
  have hsum : ∀ k ≤ t.root, (nodeAt t.node k).leaf = false →
      (nodeAt t.node k).w = (nodeAt t.node (nodeAt t.node k).left).w + (nodeAt t.node (nodeAt t.node k).right).w := by
    intro k hk hleaf
    obtain ⟨-, -, -, -, -, hweight⟩ := internalOk_of_not_leaf h (by omega) hleaf
    exact hweight
  calc cost (range t.nsyms) (fun i => (nodeAt t.node i).w)
        (fun i => (Sparse.get [] (buildTable t) (nodeAt t.node i).sym).length)
      = (S.leaves.map fun i =>
          (nodeAt t.node i).w * (Sparse.get [] (buildTable t) (nodeAt t.node i).sym).length).sum :=
        ((hS.leaves.map _).sum_eq).symm
    _ = (S.leafPaths.map fun e => (nodeAt t.node e.1).w * e.2.length).sum := by
        rw [Shape.leaves, List.map_map]
        exact congrArg List.sum (List.map_congr_left fun e he => by rw [Function.comp_apply, hS.code e he])
    _ = (S.nodes.map fun k => if (nodeAt t.node k).leaf then 0 else (nodeAt t.node k).w).sum :=
        hS.spans.sum_paths hsum
    _ = ∑ k ∈ range t.nnodes, if (nodeAt t.node k).leaf then 0 else (nodeAt t.node k).w := (hS.nodes.map _).sum_eq
    _ = ∑ k ∈ Ico t.nsyms t.nnodes, (nodeAt t.node k).w := by
        rw [← sum_range_add_sum_Ico _ (by omega : t.nsyms ≤ t.nnodes), sum_eq_zero, Nat.zero_add]
        · refine sum_congr rfl fun k hk => if_neg fun hleaf => ?_
          obtain ⟨hge, hlt⟩ := mem_Ico.1 hk
          exact absurd ((leaf_iff_lt h hlt).1 hleaf) (Nat.not_lt.2 hge)
        · intro k hk
          have hk := mem_range.1 hk
          exact if_pos ((leaf_iff_lt h (by omega)).2 hk)

/-- Settles O40: any code in which no word begins another meets Kraft's inequality, so it costs at least the weights of
all merges, and that is what the built table costs. -/
theorem huffmanCodesAreOptimal : Obligations.HuffmanCodesAreOptimal := by
  intro s t u code hwf hbuild hkind htable hcode
  cases hbuild
  cases htable
  have hkind : (buildTree s).kind = .normal := hkind
  obtain ⟨hshape, hleaves, hgreedy⟩ := buildTree_of_normal hwf hkind
  obtain ⟨⟨-, -, hregs⟩, -, hleaf, -, hinternal, -⟩ := id hshape
  obtain ⟨hn, hnodes, -⟩ := hregs hkind
  have present {i : Nat} (hi : i ∈ range (buildTree s).nsyms) : s.histAt (nodeAt (buildTree s).node i).sym ≠ 0 := by
    obtain ⟨-, -, hpos, -⟩ := hleaf i (mem_range.1 hi)
    rw [hleaves.2 i (mem_range.1 hi)] at hpos
    exact fun h0 => by
      rw [State.histAt] at h0
      rw [h0] at hpos
      cases hpos
  have alphabet {i : Nat} (hi : i ∈ range (buildTree s).nsyms) := (hleaf i (mem_range.1 hi)).2.1
  obtain ⟨L, hkraft⟩ := kraft_of_prefixFree (F := range (buildTree s).nsyms)
    (code := fun i => code (nodeAt (buildTree s).node i).sym) (by rw [card_range]; omega)
    fun i hi j hj hij hprefix => by
      have hne := hcode _ (alphabet hi) _ (alphabet hj) (present hi) (present hj) fun hsym =>
        hij (sym_inj hshape (mem_range.1 hi) (mem_range.1 hj) hsym)
      rw [List.isPrefixOf_iff_prefix.2 hprefix] at hne
      cases hne
  have upto : (buildTree s).nsyms + ((buildTree s).nnodes - (buildTree s).nsyms) = (buildTree s).nnodes := by omega
  rw [← collection_seeded (buildTree s).node] at hkraft
  have bound := sum_weights_le_cost (d := (buildTree s).nnodes - (buildTree s).nsyms) (le_refl _)
    (by rw [upto]; exact hinternal) (by rw [upto]; exact hgreedy) hkraft
  rw [upto, collection_seeded] at bound
  rw [codedLength_eq hleaves, codedLength_eq hleaves]
  exact (cost_buildTable hshape hkind).trans_le bound

end Sys2Proof.Machine
end

section
/-! The encoder, bit by bit (40_stream.md R164 to R167, 44_encode.md R271): writer and memory after the bits `x`. -/

namespace Sys2Proof.Machine

/-! ### Bytes of bits -/

/-- The byte of these bits, the first one in its highest place. -/
def byteOf (p : List Bool) : Byte := BitVec.ofNat 8 (bitsToNat p)

theorem bitsToNat_append_zeros (p : List Bool) (k : Nat) :
    bitsToNat (p ++ List.replicate k false) = bitsToNat p * 2 ^ k := by
  induction k with
  | zero => rw [List.replicate_zero, List.append_nil, pow_zero, Nat.mul_one]
  | succ k ih =>
    rw [List.replicate_succ', ← List.append_assoc, bitsToNat_concat, ih, Bool.toNat_false, Nat.add_zero, pow_succ]
    ac_rfl

theorem toNat_byteOf {p : List Bool} (hp : p.length ≤ 8) : (byteOf p).toNat = bitsToNat p := by
  rw [byteOf, BitVec.toNat_ofNat]
  exact Nat.mod_eq_of_lt ((bitsToNat_lt p).trans_le (Nat.pow_le_pow_right Nat.two_pos hp))

theorem getLsbD_byteOf {p : List Bool} {t : Nat} (hp : p.length ≤ 8) (ht : t < p.length) :
    (byteOf p).getLsbD (p.length - 1 - t) = p.getD t false := by
  rw [BitVec.getLsbD, toNat_byteOf hp, testBit_bitsToNat p ht]

theorem getD_append_zeros (p : List Bool) (k t : Nat) :
    (p ++ List.replicate k false).getD t false = p.getD t false := by
  rcases Nat.lt_or_ge t p.length with hlt | hge
  · exact List.getD_append _ _ _ _ hlt
  · rw [List.getD_append_right _ _ _ _ hge, List.getD_eq_default p false hge,
      List.getD_eq_getElem?_getD, List.getElem?_getD_replicate_default_eq]

theorem getD_drop (x : List Bool) (n t : Nat) : (x.drop n).getD t false = x.getD (n + t) false := by
  rw [List.getD_eq_getElem?_getD, List.getElem?_drop, ← List.getD_eq_getElem?_getD]

/-! ### The writer and the bytes after some bits -/

/-- The bits that follow the full bytes. -/
def pending (x : List Bool) : List Bool := x.drop (8 * (x.length / 8))

theorem length_pending (x : List Bool) : (pending x).length = x.length % 8 := by
  rw [pending, List.length_drop]
  omega

theorem pending_append_of_not_full {x : List Bool} (b : Bool) (h : x.length % 8 ≠ 7) :
    pending (x ++ [b]) = pending x ++ [b] := by
  have hq : (x.length + 1) / 8 = x.length / 8 := by omega
  rw [pending, pending, List.length_append, List.length_singleton, hq, List.drop_append_of_le_length (by omega)]

/-- The writer that has accepted the bits `x`. -/
def writerAfter (base : Word) (x : List Bool) : Writer :=
  { wopen := true, wbase := base, wacc := byteOf (pending x), wcnt := x.length % 8, wbits := x.length,
    wbytes := x.length / 8, outValid := false }

theorem shiftIn_writerAfter (base : Word) (x : List Bool) (b : Bool) :
    shiftIn b (writerAfter base x) =
      { writerAfter base x with
        wacc := byteOf (pending x ++ [b]), wcnt := x.length % 8 + 1, wbits := x.length + 1 } := by
  have hlen := length_pending x
  have hacc : 2 * (byteOf (pending x)).toNat + b.toNat = bitsToNat (pending x ++ [b]) := by
    rw [toNat_byteOf (by omega), bitsToNat_concat]
  rw [byteOf, ← hacc]
  rfl

theorem wacc_shiftIn (base : Word) (x : List Bool) (b : Bool) :
    (shiftIn b (writerAfter base x)).wacc = byteOf (pending x ++ [b]) := by rw [shiftIn_writerAfter]

theorem shiftIn_of_not_full (base : Word) {x : List Bool} (b : Bool) (h : x.length % 8 ≠ 7) :
    shiftIn b (writerAfter base x) = writerAfter base (x ++ [b]) := by
  have hq : (x.length + 1) / 8 = x.length / 8 := by omega
  have hr : (x.length + 1) % 8 = x.length % 8 + 1 := by omega
  rw [shiftIn_writerAfter, writerAfter, writerAfter, pending_append_of_not_full b h, List.length_append,
    List.length_singleton, hq, hr]

/-- The memory holds the full bytes of `x` from `base` on. -/
def HoldsBytes (m : Memory) (base : Nat) (x : List Bool) : Prop :=
  ∀ k < x.length / 8, ∀ t < 8, (m.read (base + k)).getLsbD (7 - t) = x.getD (8 * k + t) false

section
variable {m : Memory} {base : Nat} {x : List Bool}

theorem HoldsBytes.append_of_not_full (h : HoldsBytes m base x) (b : Bool) (hfull : x.length % 8 ≠ 7) :
    HoldsBytes m base (x ++ [b]) := by
  intro k hk t ht
  rw [List.length_append, List.length_singleton] at hk
  rw [h k (by omega) t ht, List.getD_append _ _ _ _ (by omega)]

/-- The byte `v` after the full bytes holds the bits from there on. -/
theorem holds_write (hwf : Memory.wf m) (h : HoldsBytes m base x) {v : Byte} {y : List Bool}
    (hv : ∀ t < 8, v.getLsbD (7 - t) = y.getD (8 * (x.length / 8) + t) false)
    (hy : ∀ j < 8 * (x.length / 8), y.getD j false = x.getD j false) {k : Nat} (hk : k < x.length / 8 + 1) {t : Nat}
    (ht : t < 8) :
    ((m.write (base + x.length / 8) v).read (base + k)).getLsbD (7 - t) = y.getD (8 * k + t) false := by
  rcases Nat.lt_succ_iff_lt_or_eq.1 hk with hlt | rfl
  · rw [Memory.read_write_other m _ _ v (by omega), h k hlt t ht, hy _ (by omega)]
  · rw [Memory.read_write_same m hwf, hv t ht]

theorem HoldsBytes.append_of_full (hwf : Memory.wf m) (h : HoldsBytes m base x) (b : Bool) (hfull : x.length % 8 = 7) :
    HoldsBytes (m.write (base + x.length / 8) (byteOf (pending x ++ [b]))) base (x ++ [b]) := by
  have hlen := length_pending x
  have hlen8 : (pending x ++ [b]).length = 8 := by rw [List.length_append, List.length_singleton]; omega
  intro k hk t ht
  rw [List.length_append, List.length_singleton] at hk
  refine holds_write hwf h (y := x ++ [b]) (fun t ht => ?_) (fun j hj => List.getD_append _ _ _ _ (by omega))
    (by omega) ht
  have bit := getLsbD_byteOf hlen8.le (t := t) (by omega)
  rw [hlen8] at bit
  rw [bit, ← getD_drop, List.drop_append_of_le_length (by omega)]
  rfl

end

theorem byteOut_of_full (base : Word) {x : List Bool} (b : Bool) (h : x.length % 8 = 7) :
    { shiftIn b (writerAfter base x) with wbytes := x.length / 8 + 1, wacc := 0, wcnt := 0 } =
      writerAfter base (x ++ [b]) := by
  have hlen : (x ++ [b]).length = x.length + 1 := List.length_append
  have hq : (x.length + 1) / 8 = x.length / 8 + 1 := by omega
  have hr : (x.length + 1) % 8 = 0 := by omega
  have hempty : pending (x ++ [b]) = [] := List.length_eq_zero_iff.1 (by rw [length_pending]; omega)
  rw [shiftIn_writerAfter, writerAfter, writerAfter, hempty, hlen, hq, hr]
  rfl

theorem holdsPartial_of_byteOf {w : Writer} {p y : List Bool} (hacc : w.wacc = byteOf p) (hcnt : w.wcnt = p.length)
    (hp : p.length ≤ 8) (hy : ∀ t < p.length, p.getD t false = y.getD (8 * w.wbytes + t) false) : HoldsPartial y w := by
  rw [HoldsPartial, hacc, hcnt, toNat_byteOf hp]
  exact ⟨bitsToNat_lt p, fun t ht => (getLsbD_byteOf hp ht).trans (hy t ht)⟩

/-- Whole bytes of `x` are the artifact of those bits. -/
theorem holdsArtifact_of_bytes {m : Memory} {base q : Nat} {x : List Bool} (hq : 8 * q ≤ x.length)
    (h : ∀ k < q, ∀ t < 8, (m.read (base + k)).getLsbD (7 - t) = x.getD (8 * k + t) false) :
    HoldsArtifact m base (x.take (8 * q)) := by
  have hlen : (x.take (8 * q)).length = 8 * q := by rw [List.length_take, Nat.min_eq_left hq]
  intro k hk t ht
  rw [hlen] at hk
  rw [h k (by omega) t ht, List.getD_eq_getElem?_getD, List.getD_eq_getElem?_getD, List.getElem?_take_of_lt (by omega)]

/-! ### The encoder's state -/

/-- COMPRESS out of `s0` with the bits `x` accepted and the memory `m`. -/
def afterBits (s0 : State) (x : List Bool) (m : Memory) : State := { s0 with wr := writerAfter s0.outAddr x, mem := m }

/-- The memory `m` of COMPRESS out of `s0` once the full bytes of `x` are written. -/
structure Encoded (s0 : State) (x : List Bool) (m : Memory) : Prop where
  wf : Memory.wf m
  bytes : HoldsBytes m s0.outAddr.toNat x
  same : SameOutside s0.mem m s0.outAddr.toNat (x.length / 8)
  fits : FitsMem s0 s0.outAddr.toNat (x.length / 8)

/-- An artifact write of COMPRESS out of `s0` has failed with `n` bits accepted, a beginning of `x`: the writer is
released and keeps what it had (40_stream.md R165). -/
structure Jammed (s0 : State) (x : List Bool) (n : Nat) (w : Writer) (m : Memory) : Prop where
  open_eq : w.wopen = false
  valid_eq : w.outValid = false
  base_eq : w.wbase = s0.outAddr
  bytes_eq : w.wbytes = s0.cfg.memSize - s0.outAddr.toNat
  bits_eq : w.wbits = n
  cnt_eq : w.wcnt = n - 8 * w.wbytes
  part : HoldsPartial x w
  bytes : ∀ k < w.wbytes, ∀ t < 8, (m.read (s0.outAddr.toNat + k)).getLsbD (7 - t) = x.getD (8 * k + t) false
  same : SameOutside s0.mem m s0.outAddr.toNat w.wbytes

namespace Encoded

variable {s0 : State} {x : List Bool} {m : Memory} {op : Nat}

theorem start (hwf : Memory.wf s0.mem) : Encoded s0 [] s0.mem :=
  ⟨hwf, fun _ hk => absurd hk (Nat.not_lt_zero _), sameOutside_refl _ _ _, .inl rfl⟩

/-- The next bit, when the byte it fills, if it fills one, exists. -/
theorem writeBit_ok (h : Encoded s0 x m) (b : Bool) (hfits : FitsMem s0 s0.outAddr.toNat ((x ++ [b]).length / 8)) :
    ∃ m', writeBit op b (afterBits s0 x m) = .ok () (afterBits s0 (x ++ [b]) m') ∧ Encoded s0 (x ++ [b]) m' := by
  have hlen : (x ++ [b]).length = x.length + 1 := List.length_append
  by_cases hfull : x.length % 8 = 7
  · have hq : (x ++ [b]).length / 8 = x.length / 8 + 1 := by omega
    rw [hq] at hfits
    refine ⟨m.write (s0.outAddr.toNat + x.length / 8) (byteOf (pending x ++ [b])), ?_, Memory.wf_write _ _ _ h.wf,
      h.bytes.append_of_full h.wf b hfull, ?_, ?_⟩
    · have run : writeBit op b (afterBits s0 x m) = .ok () (byteOut { s0 with
          wr := shiftIn b (writerAfter s0.outAddr x)
          mem := m.write (s0.outAddr.toNat + x.length / 8) (shiftIn b (writerAfter s0.outAddr x)).wacc }) :=
        writeBit_of_byte_full (s := afterBits s0 x m) op b hfull (hfits.resolve_left (Nat.succ_ne_zero _))
      rw [run, wacc_shiftIn, afterBits, ← byteOut_of_full s0.outAddr b hfull]
      rfl
    · rw [hq]
      exact h.same.write_next _
    · rw [hq]
      exact hfits
  · have hq : (x ++ [b]).length / 8 = x.length / 8 := by omega
    refine ⟨m, ?_, h.wf, h.bytes.append_of_not_full b hfull, hq ▸ h.same, hfits⟩
    rw [afterBits, afterBits, ← shiftIn_of_not_full s0.outAddr b hfull]
    exact writeBit_of_byte_not_full (s := afterBits s0 x m) op b hfull

/-- The next bit, when it fills a byte that does not exist. -/
theorem writeBit_jams (h : Encoded s0 x m) (b : Bool) (hfits : ¬ FitsMem s0 s0.outAddr.toNat ((x ++ [b]).length / 8))
    (rest : List Bool) :
    ∃ w, writeBit op b (afterBits s0 x m) =
        .raised (busErr op (s0.outAddr.toNat + w.wbytes) .write) { s0 with wr := w, mem := m } ∧
      Jammed s0 (x ++ b :: rest) (8 * w.wbytes + 8) w m := by
  have hlen : (x ++ [b]).length = x.length + 1 := List.length_append
  have hold := h.fits
  rw [hlen] at hfits
  have hfull : x.length % 8 = 7 := by
    by_contra hne
    have hq : (x.length + 1) / 8 = x.length / 8 := by omega
    exact hfits (hq ▸ hold)
  have hq : (x.length + 1) / 8 = x.length / 8 + 1 := by omega
  rw [hq, FitsMem] at hfits
  have hbeyond : s0.cfg.memSize < s0.outAddr.toNat + x.length / 8 + 1 := by omega
  refine ⟨{ shiftIn b (writerAfter s0.outAddr x) with wopen := false, outValid := false },
    writeBit_of_byte_full_beyond (s := afterBits s0 x m) op b hfull hbeyond, rfl, rfl, rfl, ?bytes, ?bits, ?cnt, ?part,
    ?mem, h.same⟩
  case bytes =>
    rw [FitsMem] at hold
    show x.length / 8 = _
    omega
  case bits =>
    show x.length + 1 = 8 * (x.length / 8) + 8
    omega
  case cnt =>
    show x.length % 8 + 1 = 8 * (x.length / 8) + 8 - 8 * (x.length / 8)
    omega
  case part =>
    have hpending := length_pending x
    have hlen8 : (pending x ++ [b]).length = x.length % 8 + 1 := by rw [List.length_append, hpending]; rfl
    refine holdsPartial_of_byteOf (wacc_shiftIn s0.outAddr x b) hlen8.symm (by omega) fun t ht => ?_
    have split : x ++ b :: rest = (x ++ [b]) ++ rest := List.append_cons x b rest
    rw [split, ← getD_drop, List.drop_append_of_le_length (by show 8 * (x.length / 8) ≤ _; omega),
      List.drop_append_of_le_length (by show 8 * (x.length / 8) ≤ _; omega)]
    exact (List.getD_append _ _ _ _ ht).symm
  case mem =>
    intro k hk t ht
    have hk : k < x.length / 8 := hk
    rw [h.bytes k hk t ht, List.getD_append _ _ _ _ (by omega)]

theorem fits_mono {s : State} {a n k : Nat} (h : FitsMem s a n) (hk : k ≤ n) : FitsMem s a k := by
  rw [FitsMem] at *
  omega

theorem writeBits_ok (h : Encoded s0 x m) (bs : List Bool)
    (hfits : FitsMem s0 s0.outAddr.toNat ((x ++ bs).length / 8)) :
    ∃ m', writeBits op bs (afterBits s0 x m) = .ok () (afterBits s0 (x ++ bs) m') ∧ Encoded s0 (x ++ bs) m' := by
  induction bs generalizing x m with
  | nil => exact ⟨m, by rw [List.append_nil]; rfl, by rwa [List.append_nil]⟩
  | cons b bs ih =>
    rw [List.append_cons] at *
    have shorter : (x ++ [b]).length ≤ (x ++ [b] ++ bs).length := by rw [List.length_append (as := x ++ [b])]; omega
    obtain ⟨m1, run, h1⟩ := h.writeBit_ok (op := op) b (fits_mono hfits (Nat.div_le_div_right shorter))
    rw [writeBits_cons, run]
    exact ih h1 hfits

theorem writeBits_jams (h : Encoded s0 x m) (bs rest : List Bool)
    (hfits : ¬ FitsMem s0 s0.outAddr.toNat ((x ++ bs).length / 8)) :
    ∃ w m', writeBits op bs (afterBits s0 x m) =
        .raised (busErr op (s0.outAddr.toNat + w.wbytes) .write) { s0 with wr := w, mem := m' } ∧
      Jammed s0 (x ++ bs ++ rest) (8 * w.wbytes + 8) w m' := by
  induction bs generalizing x m with
  | nil => exact absurd h.fits (by rwa [List.append_nil] at hfits)
  | cons b bs ih =>
    by_cases hbit : FitsMem s0 s0.outAddr.toNat ((x ++ [b]).length / 8)
    · rw [List.append_cons] at hfits ⊢
      obtain ⟨m1, run, h1⟩ := h.writeBit_ok (op := op) b hbit
      rw [writeBits_cons, run]
      exact ih h1 hfits
    · obtain ⟨w, run, jam⟩ := h.writeBit_jams (op := op) b hbit (bs ++ rest)
      rw [writeBits_cons, run, List.append_assoc]
      exact ⟨w, m, rfl, jam⟩

/-! ### The end of the artifact -/

theorem paddedByte_writerAfter (base : Word) (x : List Bool) {t : Nat} (ht : t < 8) :
    (paddedByte (writerAfter base x)).getLsbD (7 - t) = x.getD (8 * (x.length / 8) + t) false := by
  have hlen := length_pending x
  have padded : paddedByte (writerAfter base x) = byteOf (pending x ++ List.replicate (8 - x.length % 8) false) := by
    rw [byteOf, bitsToNat_append_zeros, ← toNat_byteOf (by omega : (pending x).length ≤ 8)]
    rfl
  have hlen8 : (pending x ++ List.replicate (8 - x.length % 8) false).length = 8 := by
    rw [List.length_append, List.length_replicate]
    omega
  have bit := getLsbD_byteOf hlen8.le (t := t) (by omega)
  rw [hlen8, ← padded, getD_append_zeros, pending, getD_drop] at bit
  exact bit

theorem holdsArtifact (h : Encoded s0 x m) (hnone : x.length % 8 = 0) : HoldsArtifact m s0.outAddr.toNat x := by
  intro k hk
  exact h.bytes k (by omega)

theorem holdsArtifact_flushed (h : Encoded s0 x m) :
    HoldsArtifact (m.write (s0.outAddr.toNat + x.length / 8) (paddedByte (writerAfter s0.outAddr x)))
      s0.outAddr.toNat x := by
  intro k hk t ht
  exact holds_write h.wf h.bytes (fun t ht => paddedByte_writerAfter _ x ht) (fun _ _ => rfl) (by omega) ht

theorem holdsArtifact_take (h : Encoded s0 x m) : HoldsArtifact m s0.outAddr.toNat (x.take (8 * (x.length / 8))) :=
  holdsArtifact_of_bytes (Nat.mul_div_le _ _) h.bytes

/-- WClose of an artifact that fits. -/
theorem wClose_ok (h : Encoded s0 x m) (hfits : FitsMem s0 s0.outAddr.toNat ((x.length + 7) / 8)) :
    ∃ m', wClose op (afterBits s0 x m) = .ok () { s0 with
        mem := m'
        wr := { wopen := false, wbase := s0.outAddr, wacc := 0, wcnt := 0, wbits := x.length,
                wbytes := (x.length + 7) / 8, outValid := true } } ∧
      Memory.wf m' ∧ HoldsArtifact m' s0.outAddr.toNat x ∧
      SameOutside s0.mem m' s0.outAddr.toNat ((x.length + 7) / 8) := by
  by_cases hnone : x.length % 8 = 0
  · have hq : (x.length + 7) / 8 = x.length / 8 := by omega
    rw [hq]
    exact ⟨m, wClose_of_nothing_pending (s := afterBits s0 x m) op hnone, h.wf, h.holdsArtifact hnone, h.same⟩
  · have hq : (x.length + 7) / 8 = x.length / 8 + 1 := by omega
    rw [hq] at hfits ⊢
    exact ⟨_, wClose_of_pending (s := afterBits s0 x m) op (Nat.pos_of_ne_zero hnone)
      (hfits.resolve_left (Nat.succ_ne_zero _)), Memory.wf_write _ _ _ h.wf, h.holdsArtifact_flushed,
      h.same.write_next _⟩

/-- WClose of an artifact whose last byte does not exist. -/
theorem wClose_jams (h : Encoded s0 x m) (hfits : ¬ FitsMem s0 s0.outAddr.toNat ((x.length + 7) / 8)) :
    ∃ w, wClose op (afterBits s0 x m) =
        .raised (busErr op (s0.outAddr.toNat + w.wbytes) .write) { s0 with wr := w, mem := m } ∧
      Jammed s0 x x.length w m := by
  have hold := h.fits
  have hpending : x.length % 8 ≠ 0 := fun hnone => hfits (by rwa [(by omega : (x.length + 7) / 8 = x.length / 8)])
  have hq : (x.length + 7) / 8 = x.length / 8 + 1 := by omega
  rw [hq, FitsMem] at hfits
  refine ⟨{ writerAfter s0.outAddr x with wopen := false, outValid := false },
    wClose_of_pending_beyond (s := afterBits s0 x m) op (Nat.pos_of_ne_zero hpending) (show s0.cfg.memSize < _ + 1 by
      show _ < s0.outAddr.toNat + x.length / 8 + 1; omega), rfl, rfl, rfl, ?bytes, rfl, ?cnt, ?part, h.bytes, h.same⟩
  case bytes =>
    rw [FitsMem] at hold
    show x.length / 8 = _
    omega
  case cnt =>
    show x.length % 8 = x.length - 8 * (x.length / 8)
    omega
  case part =>
    exact holdsPartial_of_byteOf rfl (length_pending x).symm (by rw [length_pending]; omega) fun t _ => getD_drop _ _ _

/-- The end of a command that fails with the writer's state intact. -/
theorem wCloseOnError_flushed (h : Encoded s0 x m) :
    ∃ m' w, wCloseOnError (afterBits s0 x m) = { s0 with mem := m', wr := w } ∧ FlushedOnError s0 x m' w := by
  have hlen := length_pending x
  have part := holdsPartial_of_byteOf (w := { writerAfter s0.outAddr x with wopen := false })
    (p := pending x) (y := x) rfl
    hlen.symm (by omega) fun t _ => getD_drop _ _ _
  rcases wCloseOnError_cases (afterBits s0 x m) with ⟨hpos, hin, run⟩ | ⟨hstay, run⟩
  · have hpos : 0 < x.length % 8 := hpos
    have hq : (x.length + 7) / 8 = x.length / 8 + 1 := by omega
    refine ⟨_, _, run, rfl, rfl, rfl, rfl, h.same.write_next _, fun _ => ⟨hq.symm, rfl, rfl, h.holdsArtifact_flushed⟩,
      fun hbeyond => absurd (.inr ?_) hbeyond⟩
    rw [hq]
    exact hin
  · refine ⟨_, _, run, rfl, rfl, rfl, rfl, h.same, fun hfits => ?_, fun _ => ⟨rfl, rfl, part, h.holdsArtifact_take⟩⟩
    have hnone : x.length % 8 = 0 := by
      rcases hstay with hnone | hbeyond
      · exact hnone
      · have hbeyond : s0.cfg.memSize < s0.outAddr.toNat + x.length / 8 + 1 := hbeyond
        have hold := h.fits
        rw [FitsMem] at hfits hold
        omega
    have hempty : pending x = [] := List.length_eq_zero_iff.1 (hlen.trans hnone)
    exact ⟨show x.length / 8 = _ by omega, hnone, congrArg byteOf hempty, h.holdsArtifact hnone⟩

end Encoded

end Sys2Proof.Machine
end

section
/-! COMPRESS, symbol by symbol (44_encode.md R271 to R276): the artifact of the codes, and where the loop stops short.
-/

namespace Sys2Proof.Machine

/-! ### The bits of the input -/

section
variable (s : State)

theorem inputCode_zero : inputCode s 0 = [] := by rw [inputCode, List.range_zero, List.flatMap_nil]

theorem inputCode_succ (i : Nat) : inputCode s (i + 1) = inputCode s i ++ s.codeAt (s.inSym i) := by
  rw [inputCode, List.range_succ, List.flatMap_append, List.flatMap_singleton]
  rfl

theorem inputCode_prefix {i j : Nat} (h : i ≤ j) : inputCode s i <+: inputCode s j := by
  induction h with
  | refl => exact List.prefix_refl _
  | step _ ih => exact ih.trans (inputCode_succ s _ ▸ List.prefix_append _ _)

theorem length_inputCode_le {i j : Nat} (h : i ≤ j) : (inputCode s i).length ≤ (inputCode s j).length :=
  (inputCode_prefix s h).length_le

theorem length_inputCode (n : Nat) :
    (inputCode s n).length = ((List.range n).map fun i => (s.codeAt (s.inSym i)).length).sum :=
  List.length_flatMap

end

/-! ### One symbol -/

theorem apart_mono {a n b k n' k' : Nat} (h : Apart a n b k) (hn : n' ≤ n) (hk : k' ≤ k) : Apart a n' b k' := by
  rw [Apart] at *
  omega

/-- An input symbol of a region apart from what was written. -/
theorem inSym_of_sameOutside {s0 : State} {m : Memory} {base k n i : Nat} (h : SameOutside s0.mem m base k)
    (hapart : Apart s0.inAddr.toNat (n * s0.cfg.sb) base k) (hi : i < n) :
    m.readLE (s0.inSymAddr i) s0.cfg.sb = s0.inSym i := by
  have hle : (i + 1) * s0.cfg.sb ≤ n * s0.cfg.sb := Nat.mul_le_mul_right _ hi
  rw [Nat.succ_mul] at hle
  refine Memory.readLE_congr m s0.mem _ _ fun x hlo hhi => h x ?_
  rw [State.inSymAddr] at hlo hhi
  rw [Apart] at hapart
  omega

section
variable {s : State} {op : Nat} {i : Nat}

theorem readInSym_of_inRange (op : Nat) (h : inRange s (s.inSymAddr i) s.cfg.sb = true) :
    readInSym op i s = .ok (s.inSym i) s := by
  rcases readInSym_cases op i s with ⟨-, run⟩ | ⟨hout, -⟩
  · exact run
  · exact absurd (hout.symm.trans h) Bool.false_ne_true

theorem encodeLoop_of_code (hin : inRange s (s.inSymAddr i) s.cfg.sb = true) (hcode : s.codeAt (s.inSym i) ≠ [])
    (n : Nat) :
    encodeLoop op (n + 1) i s =
      (writeBits op (s.codeAt (s.inSym i)) s).bind fun _ => encodeLoop op n (i + 1) := by
  rw [encodeLoop_succ, readInSym_of_inRange op hin, Run.onRaise_ok, Run.bind_ok, encodeSym,
    if_neg (mt List.length_eq_zero_iff.1 hcode)]

theorem encodeLoop_of_absent (hin : inRange s (s.inSymAddr i) s.cfg.sb = true) (hcode : s.codeAt (s.inSym i) = [])
    (n : Nat) :
    encodeLoop op (n + 1) i s = .raised (absentErr (s.inSymAddr i) (s.inSym i)) (wCloseOnError s) := by
  rw [encodeLoop_succ, readInSym_of_inRange op hin, Run.onRaise_ok, Run.bind_ok, encodeSym,
    if_pos (List.length_eq_zero_iff.2 hcode)]
  rfl

theorem encodeLoop_of_beyond (hout : inRange s (s.inSymAddr i) s.cfg.sb = false) (n : Nat) :
    encodeLoop op (n + 1) i s = .raised (busErr op (s.inSymAddr i) .read) (wCloseOnError s) := by
  rcases readInSym_cases op i s with ⟨hin, -⟩ | ⟨-, run⟩
  · exact absurd (hout.symm.trans hin) Bool.false_ne_true
  · rw [encodeLoop_succ, run]
    rfl

end

/-! ### The loop -/

namespace Encoded

variable {s0 : State} {m : Memory} {op i n : Nat}

/-- The next symbol, when it has a code and lies apart from what was written. -/
theorem encodeLoop_next (h : Encoded s0 (inputCode s0 i) m) (hin : inRange s0 (s0.inSymAddr i) s0.cfg.sb = true)
    (hcode : s0.codeAt (s0.inSym i) ≠ []) (hi : i < n)
    (hapart : Apart s0.inAddr.toNat (n * s0.cfg.sb) s0.outAddr.toNat ((inputCode s0 i).length / 8)) (r : Nat) :
    encodeLoop op (r + 1) i (afterBits s0 (inputCode s0 i) m) =
      (writeBits op (s0.codeAt (s0.inSym i)) (afterBits s0 (inputCode s0 i) m)).bind fun _ =>
        encodeLoop op r (i + 1) := by
  have hsym : (afterBits s0 (inputCode s0 i) m).inSym i = s0.inSym i := inSym_of_sameOutside h.same hapart hi
  have run := encodeLoop_of_code (op := op) (s := afterBits s0 (inputCode s0 i) m) (i := i) hin
    (by rw [hsym]; exact hcode) r
  rw [hsym] at run
  exact run

section
variable {k : Nat}

/-- The symbols up to `k`, when their codes fit. -/
theorem encodeLoop_upto (h : Encoded s0 (inputCode s0 i) m) (hk : i + n = k) (hin : inputInRange s0 k)
    (hcode : ∀ j < k, s0.codeAt (s0.inSym j) ≠ []) (hfits : FitsMem s0 s0.outAddr.toNat ((inputCode s0 k).length / 8))
    (hapart : Apart s0.inAddr.toNat (k * s0.cfg.sb) s0.outAddr.toNat ((inputCode s0 k).length / 8)) (r : Nat) :
    ∃ m', encodeLoop op (n + r) i (afterBits s0 (inputCode s0 i) m) =
        encodeLoop op r k (afterBits s0 (inputCode s0 k) m') ∧
      Encoded s0 (inputCode s0 k) m' := by
  induction n generalizing i m with
  | zero =>
    cases hk
    exact ⟨m, by rw [Nat.zero_add]; rfl, h⟩
  | succ n ih =>
    have shorter {j : Nat} (hj : j ≤ k) : (inputCode s0 j).length / 8 ≤ (inputCode s0 k).length / 8 :=
      Nat.div_le_div_right (length_inputCode_le s0 hj)
    obtain ⟨m1, run, h1⟩ := h.writeBits_ok (op := op) (s0.codeAt (s0.inSym i))
      (by rw [← inputCode_succ]; exact fits_mono hfits (shorter (by omega)))
    rw [← inputCode_succ] at run h1
    rw [Nat.succ_add, h.encodeLoop_next (n := k) (hin i (by omega)) (hcode i (by omega)) (by omega)
      (apart_mono hapart (le_refl _) (shorter (by omega))) (n + r), run]
    exact ih h1 (by omega)

/-- Among the bits of the symbols up to `k` a byte does not exist. -/
theorem encodeLoop_jams (h : Encoded s0 (inputCode s0 i) m) (hk : i + n = k) (hin : inputInRange s0 k)
    (hcode : ∀ j < k, s0.codeAt (s0.inSym j) ≠ []) (hfits : ¬ FitsMem s0 s0.outAddr.toNat ((inputCode s0 k).length / 8))
    (hapart : Apart s0.inAddr.toNat (k * s0.cfg.sb) s0.outAddr.toNat (s0.cfg.memSize - s0.outAddr.toNat)) (r : Nat) :
    ∃ w m', encodeLoop op (n + r) i (afterBits s0 (inputCode s0 i) m) =
        .raised (busErr op (s0.outAddr.toNat + w.wbytes) .write) { s0 with wr := w, mem := m' } ∧
      Jammed s0 (inputCode s0 k) (8 * w.wbytes + 8) w m' := by
  induction n generalizing i m with
  | zero =>
    cases hk
    exact absurd h.fits hfits
  | succ n ih =>
    have room : (inputCode s0 i).length / 8 ≤ s0.cfg.memSize - s0.outAddr.toNat := by
      have hold := h.fits
      rw [FitsMem] at hold
      omega
    rw [Nat.succ_add, h.encodeLoop_next (n := k) (hin i (by omega)) (hcode i (by omega)) (by omega)
      (apart_mono hapart (le_refl _) room) (n + r)]
    by_cases hsym : FitsMem s0 s0.outAddr.toNat ((inputCode s0 (i + 1)).length / 8)
    · rw [inputCode_succ] at hsym
      obtain ⟨m1, run, h1⟩ := h.writeBits_ok (op := op) (s0.codeAt (s0.inSym i)) hsym
      rw [← inputCode_succ] at run h1
      rw [run]
      exact ih h1 (by omega)
    · rw [inputCode_succ] at hsym
      obtain ⟨rest, hrest⟩ := inputCode_prefix s0 (by omega : i + 1 ≤ k)
      obtain ⟨w, m1, run, jam⟩ := h.writeBits_jams (op := op) (s0.codeAt (s0.inSym i)) rest hsym
      rw [← inputCode_succ, hrest] at jam
      exact ⟨w, m1, by rw [run]; rfl, jam⟩

end

end Encoded

/-- What is left of a jammed writer. -/
theorem Jammed.ends {s0 : State} {x : List Bool} {n : Nat} {w : Writer} {m : Memory} (h : Jammed s0 x n w m)
    (hn : n = min x.length (8 * w.wbytes + 8)) (hle : 8 * w.wbytes ≤ x.length) :
    w.wopen = false ∧ w.outValid = false ∧ w.wbase = s0.outAddr ∧ w.wbytes = s0.cfg.memSize - s0.outAddr.toNat ∧
    w.wbits = min x.length (8 * w.wbytes + 8) ∧ w.wcnt = w.wbits - 8 * w.wbytes ∧ HoldsPartial x w ∧
    HoldsArtifact m s0.outAddr.toNat (x.take (8 * w.wbytes)) ∧ SameOutside s0.mem m s0.outAddr.toNat w.wbytes :=
  ⟨h.open_eq, h.valid_eq, h.base_eq, h.bytes_eq, h.bits_eq.trans hn, by rw [h.cnt_eq, h.bits_eq], h.part,
    holdsArtifact_of_bytes hle h.bytes, h.same⟩

/-! ### The command -/

section
variable {s : State}

theorem exec_compress_of_closed (h : s.wr.wopen = false) : exec .compress s = finish (compressBody 0x4 s) :=
  if_neg (Bool.eq_false_iff.1 h)

theorem wOpen_eq_afterBits (s : State) : wOpen s.outAddr s = afterBits s (inputCode s 0) s.mem := by
  rw [inputCode_zero]
  rfl

/-- COMPRESS has encoded the first `k` symbols and comes to the next. -/
theorem compress_upto {k : Nat} (hwf : Memory.wf s.mem) (hk : k ≤ s.inCount) (hin : inputInRange s k)
    (hcode : ∀ i < k, s.codeAt (s.inSym i) ≠ []) (hfits : FitsMem s s.outAddr.toNat ((inputCode s k).length / 8))
    (hapart : Apart s.inAddr.toNat (k * s.cfg.sb) s.outAddr.toNat ((inputCode s k).length / 8)) :
    ∃ m, encodeLoop 0x4 s.inCount 0 (wOpen s.outAddr s) =
        encodeLoop 0x4 (s.inCount - k) k (afterBits s (inputCode s k) m) ∧ Encoded s (inputCode s k) m := by
  have start : Encoded s (inputCode s 0) s.mem := inputCode_zero s ▸ Encoded.start hwf
  have upto := start.encodeLoop_upto (op := 0x4) (Nat.zero_add k) hin hcode hfits hapart (s.inCount - k)
  rw [Nat.add_sub_cancel' hk] at upto
  rw [wOpen_eq_afterBits]
  exact upto

/-- The part of the output and of the input that the first `k` symbols reach. -/
theorem fits_bytes {x : List Bool} (h : FitsMem s s.outAddr.toNat ((x.length + 7) / 8)) :
    FitsMem s s.outAddr.toNat (x.length / 8) := Encoded.fits_mono h (Nat.div_le_div_right (Nat.le_add_right _ _))

theorem apart_bytes {n : Nat} {x : List Bool} (h : Apart s.inAddr.toNat n s.outAddr.toNat ((x.length + 7) / 8)) :
    Apart s.inAddr.toNat n s.outAddr.toNat (x.length / 8) :=
  apart_mono h (le_refl _) (Nat.div_le_div_right (Nat.le_add_right _ _))

/-- Settles O41: every symbol is encoded, and the artifact closed. -/
theorem compressWritesTheArtifact : Obligations.CompressWritesTheArtifact := by
  rintro s x hwf hclosed rfl hin hcode hfits hapart
  obtain ⟨m, run, henc⟩ := compress_upto hwf (le_refl _) hin hcode (fits_bytes hfits) (apart_bytes hapart)
  obtain ⟨M, close, -, hart, hsame⟩ := henc.wClose_ok (op := 0x4) hfits
  refine ⟨M, ?_, length_inputCode s _, hart, hsame⟩
  rw [exec_compress_of_closed hclosed, compressBody_eq, run, Nat.sub_self]
  exact congrArg finish close

/-- Settles O42: the symbols before it are encoded, and the writer closed as after any error. -/
theorem compressReportsAnAbsentSymbol : Obligations.CompressReportsAnAbsentSymbol := by
  rintro s k x hwf hclosed hk rfl hin hcode habsent hfits hapart
  have nearer := apart_bytes hapart
  obtain ⟨m, run, henc⟩ := compress_upto hwf hk.le (fun i hi => hin i (by omega)) hcode hfits
    (apart_mono nearer (Nat.mul_le_mul_right _ k.le_succ) (le_refl _))
  obtain ⟨M, W, close, hflush⟩ := henc.wCloseOnError_flushed
  have hsym : (afterBits s (inputCode s k) m).inSym k = s.inSym k :=
    inSym_of_sameOutside henc.same nearer k.lt_succ_self
  refine ⟨M, W, ?_, hflush⟩
  obtain ⟨r, hr⟩ := Nat.exists_eq_add_of_lt hk
  have left : s.inCount - k = r + 1 := by omega
  rw [exec_compress_of_closed hclosed, compressBody_eq, run, left,
    encodeLoop_of_absent (s := afterBits s (inputCode s k) m) (hin k k.lt_succ_self) (by rw [hsym]; exact habsent),
    close, hsym]
  rfl

/-- Settles O43: the read of symbol k fails with the symbols before it encoded; a write fails in the loop, or in WClose
after it. -/
theorem compressOnABusError : Obligations.CompressOnABusError := by
  refine ⟨?read, ?write⟩
  case read =>
    rintro s k x hwf hclosed hk rfl hin hout hcode hfits hapart
    obtain ⟨m, run, henc⟩ := compress_upto hwf hk.le hin hcode hfits (apart_bytes hapart)
    obtain ⟨M, W, close, hflush⟩ := henc.wCloseOnError_flushed
    refine ⟨M, W, ?_, hflush⟩
    obtain ⟨r, hr⟩ := Nat.exists_eq_add_of_lt hk
    have left : s.inCount - k = r + 1 := by omega
    rw [exec_compress_of_closed hclosed, compressBody_eq, run, left, 
      encodeLoop_of_beyond (s := afterBits s (inputCode s k) m) hout, close]
    rfl
  case write =>
    rintro s n x hwf hclosed hn rfl hin hcode hbeyond hapart
    by_cases hfull : FitsMem s s.outAddr.toNat ((inputCode s n).length / 8)
    · obtain ⟨rfl, hlast⟩ := hbeyond.resolve_left (not_not_intro hfull)
      have room : (inputCode s s.inCount).length / 8 ≤ s.cfg.memSize - s.outAddr.toNat := by
        rw [FitsMem] at hfull
        omega
      obtain ⟨m, run, henc⟩ := compress_upto hwf (le_refl _) hin hcode hfull (apart_mono hapart (le_refl _) room)
      obtain ⟨W, close, jam⟩ := henc.wClose_jams (op := 0x4) hlast
      refine ⟨m, W, ?_, jam.ends (Nat.min_eq_left ?_).symm ?_⟩
      · rw [exec_compress_of_closed hclosed, compressBody_eq, run, Nat.sub_self]
        exact congrArg finish close
      · rw [jam.bytes_eq]
        rw [FitsMem] at hlast
        omega
      · rw [jam.bytes_eq]
        rw [FitsMem] at hlast hfull
        omega
    · have start : Encoded s (inputCode s 0) s.mem := inputCode_zero s ▸ Encoded.start hwf
      obtain ⟨W, m, run, jam⟩ := start.encodeLoop_jams (op := 0x4) (Nat.zero_add n) hin hcode hfull hapart
        (s.inCount - n)
      rw [Nat.add_sub_cancel' hn] at run
      refine ⟨m, W, ?_, jam.ends (Nat.min_eq_right ?_).symm ?_⟩
      · rw [exec_compress_of_closed hclosed, compressBody_eq, wOpen_eq_afterBits, run]
        rfl
      · rw [jam.bytes_eq]
        rw [FitsMem] at hfull
        omega
      · rw [jam.bytes_eq]
        rw [FitsMem] at hfull
        omega

end

end Sys2Proof.Machine
end

section
/-! DECOMPRESS, bit by bit (45_decode.md R301 to R306): reader, memory and DSTLEN once `k` bits are consumed and the
symbols `out` are written. -/

namespace Sys2Proof.Machine

/-! ### Emitting late -/

/-- What the decoder writes from position `pos` on: a leaf's symbol when the next bit comes, and at the end of a NORMAL
tree's bits (45_decode.md R301). -/
def spelled (s : State) : Nat → List Bool → List Nat
  | pos, [] => if s.tree.kind = .normal ∧ (s.nodeAt pos).leaf = true then [(s.nodeAt pos).sym] else []
  | pos, b :: bs =>
    if (s.nodeAt pos).leaf then (s.nodeAt pos).sym :: spelled s (walkBit b s.tree.root s) bs
    else spelled s (walkBit b pos s) bs

section
variable {s : State}

theorem walkBit_of_normal (h : s.tree.kind = .normal) (b : Bool) (pos : Nat) :
    walkBit b pos s = if b then (s.nodeAt pos).right else (s.nodeAt pos).left := by
  simp only [walkBit, h]

theorem walkBit_of_degen (h : s.tree.kind = .degen) (b : Bool) (pos : Nat) : walkBit b pos s = pos := by
  simp only [walkBit, h]

/-- In a NORMAL tree a symbol written at the next bit, or at the end, is one spelled as its leaf is reached
(45_decode.md R304). -/
theorem spelled_of_normal (h : s.tree.kind = .normal) (pos : Nat) (bits : List Bool) :
    spelled s pos bits =
      if (s.nodeAt pos).leaf then (s.nodeAt pos).sym :: decodeBits s.tree.node s.tree.root s.tree.root bits
      else decodeBits s.tree.node s.tree.root pos bits := by
  induction bits generalizing pos with
  | nil => simp only [spelled, h, true_and, decodeBits]
  | cons b bs ih =>
    rw [spelled, ih, ih, walkBit_of_normal h, walkBit_of_normal h]
    rfl

theorem spelled_cons (pos : Nat) (b : Bool) (bs : List Bool) :
    spelled s pos (b :: bs) = (if (s.nodeAt pos).leaf then [(s.nodeAt pos).sym] else []) ++
      spelled s (walkBit b (if (s.nodeAt pos).leaf then s.tree.root else pos) s) bs := by
  rw [spelled]
  split_ifs <;> rfl

theorem root_lt_nnodes (h : TreeShape s.cfg s.tree) (htree : s.tree.kind ≠ .empty) : s.tree.root < s.tree.nnodes := by
  obtain ⟨⟨-, hdegen, hnormal⟩, -⟩ := h
  cases hkind : s.tree.kind with
  | empty => exact absurd hkind htree
  | degen => have := hdegen hkind; omega
  | normal => have := hnormal hkind; omega

theorem spelled_of_degen (h : s.tree.kind = .degen) (hleaf : (s.nodeAt s.tree.root).leaf = true) (bits : List Bool) :
    spelled s s.tree.root bits = bits.map fun _ => (s.nodeAt s.tree.root).sym := by
  induction bits with
  | nil => exact if_neg fun hc => absurd (h.symm.trans hc.1) (by decide)
  | cons b bs ih =>
    rw [spelled, if_pos hleaf, walkBit_of_degen h, ih]
    rfl

theorem spelled_root (h : TreeShape s.cfg s.tree) (htree : s.tree.kind ≠ .empty) (bits : List Bool) :
    spelled s s.tree.root bits = decodedSyms s.tree bits := by
  obtain ⟨hnormal, hdegen⟩ := root_leaf h
  cases hkind : s.tree.kind with
  | empty => exact absurd hkind htree
  | normal =>
    rw [spelled_of_normal hkind, decodedSyms_of_normal hkind, State.nodeAt, hnormal hkind]
    rfl
  | degen =>
    rw [spelled_of_degen hkind (hdegen hkind)]
    simp only [decodedSyms, hkind]
    rfl

/-- A walk stays in the tree: it starts from an inner node, or from the one-leaf tree's ROOT. -/
theorem walkBit_lt (h : TreeShape s.cfg s.tree) (b : Bool) {pos : Nat} (hpos : pos < s.tree.nnodes)
    (hleaf : s.tree.kind = .normal → (s.nodeAt pos).leaf = false) : walkBit b pos s < s.tree.nnodes := by
  cases hkind : s.tree.kind with
  | normal =>
    obtain ⟨-, -, hl, hr, -⟩ := internalOk_of_not_leaf h hpos (hleaf hkind)
    rw [walkBit_of_normal hkind]
    split_ifs
    · exact hr.trans hpos
    · exact hl.trans hpos
  | degen => rw [walkBit_of_degen hkind]; exact hpos
  | empty => simpa only [walkBit, hkind] using hpos

end

/-! ### The symbols written -/

theorem pow_sb (c : Config) : 256 ^ c.sb = c.nsym := by
  unfold Config.sb Config.nsym Config.symBits
  cases c.symW <;> rfl

/-- One symbol more after those in memory. -/
theorem HoldsSyms.writeLE_next {m : Memory} {base sb : Nat} {out : List Nat} (hwf : Memory.wf m)
    (h : HoldsSyms m base sb out) {x : Nat} (hx : x < 256 ^ sb) :
    HoldsSyms (m.writeLE (base + out.length * sb) sb x) base sb (out ++ [x]) := by
  intro k hk
  rw [List.length_append, List.length_singleton] at hk
  rcases Nat.lt_succ_iff_lt_or_eq.1 hk with hlt | rfl
  · have hle : (k + 1) * sb ≤ out.length * sb := Nat.mul_le_mul_right _ hlt
    rw [Nat.succ_mul] at hle
    rw [List.getD_append _ _ _ _ hlt, ← h k hlt]
    exact Memory.readLE_congr _ m _ _ fun a _ _ => Memory.read_writeLE_other m _ sb x a (by omega)
  · rw [Memory.readLE_writeLE_same m hwf, Nat.mod_eq_of_lt hx, List.getD_append_right _ _ _ _ (le_refl _), Nat.sub_self]
    rfl

/-! ### The decoder's state -/

/-- RBYTE once `k` bits are consumed: the byte of the last one (40_stream.md R169). -/
def lastByte (s : State) (k : Nat) : Byte := if k = 0 then 0 else s.mem.read (s.srcAddr.toNat + (k - 1) / 8)

/-- DECOMPRESS out of `s` with `k` bits consumed, the symbols `out` written, and the memory `m`. -/
def decodeState (s : State) (k : Nat) (out : List Nat) (m : Memory) : State :=
  { s with
    rd := { ropen := true, rbase := s.srcAddr, rlen := s.srcBits.toNat, rpos := k, rbyte := lastByte s k,
            rdata := false }
    dstLen := out.length
    dstValid := false
    mem := m }

/-- The memory `m` of DECOMPRESS out of `s` once the symbols `out` are written. -/
structure Decoded (s : State) (out : List Nat) (m : Memory) : Prop where
  wf : Memory.wf m
  holds : HoldsSyms m s.dstAddr.toNat s.cfg.sb out
  same : SameOutside s.mem m s.dstAddr.toNat (out.length * s.cfg.sb)

namespace Decoded

variable {s : State} {out : List Nat} {m : Memory} {op k : Nat}

theorem start (hwf : Memory.wf s.mem) : Decoded s [] s.mem :=
  ⟨hwf, fun _ hk => absurd hk (Nat.not_lt_zero _), sameOutside_refl _ _ _⟩

theorem emit_ok (h : Decoded s out m) {x total : Nat} (hx : x < s.cfg.nsym) (hlen : out.length < total)
    (hfits : FitsMem s s.dstAddr.toNat (total * s.cfg.sb)) :
    ∃ m', emit op x (decodeState s k out m) = .ok () (decodeState s k (out ++ [x]) m') ∧ Decoded s (out ++ [x]) m' := by
  have hnext : (out ++ [x]).length = out.length + 1 := List.length_append
  have hle : (out.length + 1) * s.cfg.sb ≤ total * s.cfg.sb := Nat.mul_le_mul_right _ hlen
  have hsb : 0 < s.cfg.sb := by unfold Config.sb Config.symBits; cases s.cfg.symW <;> decide
  have hpos : total * s.cfg.sb ≠ 0 := (Nat.mul_pos (by omega) hsb).ne'
  have hend := hfits.resolve_left hpos
  rw [Nat.succ_mul] at hle
  refine ⟨m.writeLE (s.dstAddr.toNat + out.length * s.cfg.sb) s.cfg.sb x, ?_, Memory.wf_writeLE _ _ _ _ h.wf,
    h.holds.writeLE_next h.wf (pow_sb s.cfg ▸ hx), hnext ▸ h.same.writeLE_next x⟩
  rcases emit_cases op x (decodeState s k out m) with ⟨-, run⟩ | ⟨hbeyond, -⟩
  · rw [run, decodeState, decodeState, hnext]
    rfl
  · have hbeyond : s.cfg.memSize < s.dstAddr.toNat + out.length * s.cfg.sb + s.cfg.sb := hbeyond
    omega

/-- The next bit, read from an artifact that the output does not overlap. -/
theorem readBit_ok (h : Decoded s out m) (hk : k < s.srcBits.toNat)
    (hfits : FitsMem s s.srcAddr.toNat ((s.srcBits.toNat + 7) / 8))
    (hapart : Apart s.srcAddr.toNat ((s.srcBits.toNat + 7) / 8) s.dstAddr.toNat (out.length * s.cfg.sb)) :
    readBit op (decodeState s k out m) =
      .ok ((s.mem.read (s.srcAddr.toNat + k / 8)).getLsbD (7 - k % 8)) (decodeState s (k + 1) out m) := by
  by_cases hpos : k % 8 = 0
  · have hread : m.read (s.srcAddr.toNat + k / 8) = s.mem.read (s.srcAddr.toNat + k / 8) := by
      rw [Apart] at hapart
      exact h.same _ (by omega)
    have hin : s.srcAddr.toNat + k / 8 + 1 ≤ s.cfg.memSize := by
      rw [FitsMem] at hfits
      omega
    have run := readBit_of_boundary (s := decodeState s k out m) op hpos hin
    have haddr : (decodeState s k out m).mem.read (decodeState s k out m).rbyteAddr =
        s.mem.read (s.srcAddr.toNat + k / 8) := hread
    rw [haddr] at run
    rw [run, hpos]
    rfl
  · have hsame : lastByte s k = s.mem.read (s.srcAddr.toNat + k / 8) := by
      rw [lastByte, if_neg (by omega), (by omega : (k - 1) / 8 = k / 8)]
    have run := readBit_of_inside_byte (s := decodeState s k out m) op hpos
    have hold : (decodeState s k out m).rd.rbyte = s.mem.read (s.srcAddr.toNat + k / 8) := hsame
    rw [hold] at run
    exact run.trans (congrArg (fun v => Run.ok _ { decodeState s k out m with
      rd := { (decodeState s k out m).rd with rbyte := v, rpos := k + 1 } }) hsame)

end Decoded

/-! ### The loop -/

theorem Run.bind_assoc {α β γ : Type} (r : Run α) (f : α → State → Run β) (g : β → State → Run γ) :
    (r.bind f).bind g = r.bind fun a s => (f a s).bind g := by
  cases r <;> rfl

theorem walkBit_decodeState (s : State) (k : Nat) (out : List Nat) (m : Memory) (b : Bool) (pos : Nat) :
    walkBit b pos (decodeState s k out m) = walkBit b pos s := rfl

theorem finalEmit_decodeState (s : State) (k : Nat) (out : List Nat) (m : Memory) (op pos : Nat) :
    finalEmit op pos (decodeState s k out m) =
      if s.tree.kind = .normal ∧ (s.nodeAt pos).leaf = true then emit op (s.nodeAt pos).sym (decodeState s k out m)
      else .ok () (decodeState s k out m) := rfl

theorem artifactBits_drop (m : Memory) (base : Nat) {n k : Nat} (hk : k < n) :
    (artifactBits m base n).drop k =
      (m.read (base + k / 8)).getLsbD (7 - k % 8) :: (artifactBits m base n).drop (k + 1) := by
  have hlen : (artifactBits m base n).length = n := by rw [artifactBits, List.length_map, List.length_range]
  rw [List.drop_eq_getElem_cons (by omega)]
  simp only [artifactBits, List.getElem_map, List.getElem_range]

section
variable {s : State} {out all : List Nat} {m : Memory} {op k pos n : Nat}

/-- The emission before a bit; it leaves an inner node, or the one-leaf tree's ROOT, to walk from. -/
theorem Decoded.emitIfLeaf_ok (h : Decoded s out m) (hshape : TreeShape s.cfg s.tree) (hpos : pos < s.tree.nnodes)
    (hall : out ++ (if (s.nodeAt pos).leaf then [(s.nodeAt pos).sym] else []) <+: all)
    (hfits : FitsMem s s.dstAddr.toNat (all.length * s.cfg.sb)) :
    ∃ m', emitIfLeaf op pos (decodeState s k out m) =
        .ok (if (s.nodeAt pos).leaf then s.tree.root else pos)
          (decodeState s k (out ++ if (s.nodeAt pos).leaf then [(s.nodeAt pos).sym] else []) m') ∧
      Decoded s (out ++ if (s.nodeAt pos).leaf then [(s.nodeAt pos).sym] else []) m' := by
  have hnode : (decodeState s k out m).nodeAt pos = s.nodeAt pos := rfl
  rw [emitIfLeaf_eq, hnode]
  split_ifs at hall ⊢ with hleaf
  · have hlen : out.length < all.length := by
      have := hall.length_le
      rw [List.length_append, List.length_singleton] at this
      omega
    obtain ⟨m', run, h'⟩ := h.emit_ok (op := op) (k := k) (sym_lt_of_treeShape hshape hpos) hlen hfits
    exact ⟨m', by rw [State.nodeAt, run]; rfl, h'⟩
  · exact ⟨m, by rw [List.append_nil], by rwa [List.append_nil]⟩

/-- The passes that are left, and the final emission, write what the bits that are left spell. -/
theorem Decoded.decodeLoop_ok (h : Decoded s out m) (hshape : TreeShape s.cfg s.tree) (htree : s.tree.kind ≠ .empty)
    (hpos : pos < s.tree.nnodes)
    (hdegen : s.tree.kind = .degen → pos = s.tree.root) (hn : k + n = s.srcBits.toNat)
    (hall : all = out ++ spelled s pos ((artifactBits s.mem s.srcAddr.toNat s.srcBits.toNat).drop k))
    (hsrc : FitsMem s s.srcAddr.toNat ((s.srcBits.toNat + 7) / 8))
    (hdst : FitsMem s s.dstAddr.toNat (all.length * s.cfg.sb))
    (hapart : Apart s.srcAddr.toNat ((s.srcBits.toNat + 7) / 8) s.dstAddr.toNat (all.length * s.cfg.sb)) :
    ∃ m', ((decodeLoop op n pos (decodeState s k out m)).bind fun p t => finalEmit op p t) =
        .ok () (decodeState s s.srcBits.toNat all m') ∧ Decoded s all m' := by
  induction n generalizing k out m pos with
  | zero =>
    have hnone : (artifactBits s.mem s.srcAddr.toNat s.srcBits.toNat).drop k = [] :=
      List.drop_eq_nil_of_le (by rw [artifactBits, List.length_map, List.length_range]; omega)
    rw [hnone, spelled] at hall
    rw [Nat.add_zero] at hn
    rw [decodeLoop, Run.bind_ok, finalEmit_decodeState, ← hn]
    split_ifs at hall with hleaf
    · have hlen : out.length < all.length := by rw [hall, List.length_append, List.length_singleton]; omega
      rw [if_pos hleaf, hall]
      exact h.emit_ok (sym_lt_of_treeShape hshape hpos) hlen hdst
    · rw [if_neg hleaf, hall, List.append_nil]
      exact ⟨m, rfl, h⟩
  | succ n ih =>
    have hlt : k < s.srcBits.toNat := by omega
    rw [artifactBits_drop _ _ hlt, spelled_cons, ← List.append_assoc] at hall
    have before : out ++ (if (s.nodeAt pos).leaf then [(s.nodeAt pos).sym] else []) <+: all :=
      hall ▸ List.prefix_append _ _
    obtain ⟨m1, emitted, h1⟩ := h.emitIfLeaf_ok (op := op) (k := k) hshape hpos before hdst
    have read := h1.readBit_ok (op := op) hlt hsrc
      (apart_mono hapart (le_refl _) (Nat.mul_le_mul_right _ before.length_le))
    rw [decodeLoop_succ, if_pos ((hasMore_iff (decodeState s k out m)).2 ⟨rfl, hlt⟩), emitted, Run.bind_ok, read]
    refine ih h1 (walkBit_lt hshape _ ?_ ?_) ?_ (by omega) hall
    · split_ifs
      · exact root_lt_nnodes hshape htree
      · exact hpos
    · intro hnormal
      split_ifs with hleaf
      · exact (root_leaf hshape).1 hnormal
      · exact Bool.eq_false_iff.2 hleaf
    · intro hd
      rw [walkBit_decodeState, walkBit_of_degen hd, hdegen hd, ite_self]

/-- DECOMPRESS of an artifact that exists into a region that exists, apart from it. -/
theorem exec_decompress_spelled (hwf : Memory.wf s.mem) (hshape : TreeShape s.cfg s.tree) (htree : s.tree.kind ≠ .empty)
    (hclosed : s.rd.ropen = false)
    (hout : out = decodedSyms s.tree (artifactBits s.mem s.srcAddr.toNat s.srcBits.toNat))
    (hsrc : FitsMem s s.srcAddr.toNat ((s.srcBits.toNat + 7) / 8))
    (hdst : FitsMem s s.dstAddr.toNat (out.length * s.cfg.sb))
    (hapart : Apart s.srcAddr.toNat ((s.srcBits.toNat + 7) / 8) s.dstAddr.toNat (out.length * s.cfg.sb)) :
    ∃ M, exec .decompress s = .next (complete (closeDecoder (decodeState s s.srcBits.toNat out M))) ∧
      Decoded s out M := by
  have spelt : out = [] ++ spelled s s.tree.root ((artifactBits s.mem s.srcAddr.toNat s.srcBits.toNat).drop 0) :=
    hout.trans (spelled_root hshape htree _).symm
  obtain ⟨M, run, h⟩ := (Decoded.start hwf).decodeLoop_ok (op := 0x5) hshape htree (root_lt_nnodes hshape htree)
    (fun _ => rfl) (Nat.zero_add _) spelt hsrc
    hdst hapart
  have start : rOpen s.srcAddr s.srcBits.toNat { s with dstValid := false, dstLen := 0 } = decodeState s 0 [] s.mem :=
    rfl
  have body : decompressBody 0x5 s = .ok () (closeDecoder (decodeState s s.srcBits.toNat out M)) := by
    rw [decompressBody_of_tree 0x5 s htree, decodeBody_eq, start, ← Run.bind_assoc]
    exact congrArg (fun r => r.bind fun _ u => .ok () (closeDecoder u)) run
  exact ⟨M, by rw [exec_decompress_of_closed hclosed, body, finish_ok], h⟩

end

theorem decodedSyms_of_degen {t : Tree} (h : t.kind = .degen) (bits : List Bool) :
    decodedSyms t bits = List.replicate bits.length (nodeAt t.node t.root).sym := by
  simp only [decodedSyms, h, List.map_const']

/-- Settles O46: the walk writes what the bits spell, and late emission is the same. -/
theorem decompressWritesTheSpelledSymbols : Obligations.DecompressWritesTheSpelledSymbols := by
  rintro s n out hwf ⟨-, -, hshape⟩ htree hclosed rfl hout hsrc hdst hapart
  obtain ⟨M, run, h⟩ := exec_decompress_spelled hwf hshape htree hclosed hout hsrc hdst hapart
  refine ⟨M, run, fun hdegen => ?_, h.holds, h.same⟩
  rw [hout, decodedSyms_of_degen hdegen, artifactBits, List.length_map, List.length_range]
  rfl

end Sys2Proof.Machine
end

section
/-! The round-trip law (45_decode.md R308): a COMPRESS that ends without an error has written the artifact of its
input's codes, and those codes spell the input. -/

namespace Sys2Proof.Machine

/-! ### A COMPRESS without an error -/

/-- The bytes written only grow. -/
theorem encodeLoop_wbytes_le {op n i : Nat} {s t : State} (h : encodeLoop op n i s = .ok () t) :
    s.wr.wbytes ≤ t.wr.wbytes := by
  have ends := encodeLoop_ends (op := op) (P := fun u => s.wr.wbytes ≤ u.wr.wbytes) (Q := fun _ _ => True)
    (fun b u hu => by
      rcases writeBit_cases op b u with ⟨-, run⟩ | ⟨-, -, run⟩ | ⟨-, -, run⟩ <;> rw [run]
      · exact hu
      · exact hu.trans (Nat.le_succ _)
      · trivial)
    (fun _ _ _ _ => trivial) (fun _ _ _ => trivial) n i (le_refl _)
  rw [h] at ends
  exact ends

theorem wClose_wbytes_le {op : Nat} {s t : State} (h : wClose op s = .ok () t) : s.wr.wbytes ≤ t.wr.wbytes := by
  rcases wClose_cases op s with ⟨-, run⟩ | ⟨-, -, run⟩ | ⟨-, -, run⟩ <;> rw [run] at h <;> cases h
  · exact le_refl _
  · exact Nat.le_succ _

/-- A loop that has not raised, its input apart from what it wrote, has encoded its symbols, each with a code. -/
theorem Encoded.of_encodeLoop_ok {s0 t : State} {m : Memory} {op i n k : Nat} (h : Encoded s0 (inputCode s0 i) m)
    (hk : i + n = k) (run : encodeLoop op n i (afterBits s0 (inputCode s0 i) m) = .ok () t)
    (hapart : Apart s0.inAddr.toNat (k * s0.cfg.sb) s0.outAddr.toNat t.wr.wbytes) :
    (∃ m', t = afterBits s0 (inputCode s0 k) m' ∧ Encoded s0 (inputCode s0 k) m') ∧
    ∀ j, i ≤ j → j < k → s0.codeAt (s0.inSym j) ≠ [] := by
  induction n generalizing i m with
  | zero =>
    cases hk
    cases run
    exact ⟨⟨m, rfl, h⟩, fun j hij hj => absurd hij (Nat.not_le.2 hj)⟩
  | succ n ih =>
    have grown : (inputCode s0 i).length / 8 ≤ t.wr.wbytes := encodeLoop_wbytes_le run
    have hsym : (afterBits s0 (inputCode s0 i) m).inSym i = s0.inSym i :=
      inSym_of_sameOutside h.same (apart_mono hapart (le_refl _) grown) (by omega)
    cases hin : inRange s0 (s0.inSymAddr i) s0.cfg.sb with
    | false =>
      rw [encodeLoop_of_beyond (s := afterBits s0 (inputCode s0 i) m) hin] at run
      cases run
    | true =>
      by_cases hcode : s0.codeAt (s0.inSym i) = []
      · rw [encodeLoop_of_absent (s := afterBits s0 (inputCode s0 i) m) hin (by rw [hsym]; exact hcode)] at run
        cases run
      rw [h.encodeLoop_next (n := k) hin hcode (by omega) (apart_mono hapart (le_refl _) grown)] at run
      by_cases hfits : FitsMem s0 s0.outAddr.toNat ((inputCode s0 i ++ s0.codeAt (s0.inSym i)).length / 8)
      · obtain ⟨m1, written, h1⟩ := h.writeBits_ok (op := op) _ hfits
        rw [← inputCode_succ] at written h1
        rw [written] at run
        obtain ⟨last, codes⟩ := ih h1 (by omega) run
        refine ⟨last, fun j hij hj => ?_⟩
        rcases Nat.eq_or_lt_of_le hij with rfl | hlt
        · exact hcode
        · exact codes j hlt hj
      · obtain ⟨w, m1, jam, -⟩ := h.writeBits_jams (op := op) _ [] hfits
        rw [jam] at run
        cases run

theorem exec_ok {i : Instr} {s t : State} (h : exec i s = .next t) (herr : t.err = false) :
    ∃ u, body i s = .ok () u ∧ t = complete u := by
  rcases exec_ending h with ok | ⟨e, u, -, -, rfl⟩
  · exact ok
  · cases herr

/-- A COMPRESS without an error, its input apart from its artifact. -/
theorem compress_of_no_error {s t : State} (hwf : Memory.wf s.mem) (h : exec .compress s = .next t)
    (herr : t.err = false)
    (hapart : Apart s.inAddr.toNat (s.inCount * s.cfg.sb) s.outAddr.toNat t.wr.wbytes) :
    ∃ M, t = endedOk { s with
        mem := M
        wr := { wopen := false, wbase := s.outAddr, wacc := 0, wcnt := 0, wbits := (inputCode s s.inCount).length,
                wbytes := ((inputCode s s.inCount).length + 7) / 8, outValid := true } } ∧
      Memory.wf M ∧ HoldsArtifact M s.outAddr.toNat (inputCode s s.inCount) ∧
      FitsMem s s.outAddr.toNat (((inputCode s s.inCount).length + 7) / 8) ∧
      ∀ i < s.inCount, s.codeAt (s.inSym i) ≠ [] := by
  obtain ⟨u, run, rfl⟩ := exec_ok h herr
  simp only [body] at run
  split at run
  · cases run
  rw [compressBody_eq, wOpen_eq_afterBits] at run
  cases loop : encodeLoop 0x4 s.inCount 0 (afterBits s (inputCode s 0) s.mem) with
  | raised e v => rw [loop] at run; cases run
  | ok _ v =>
    rw [loop, Run.bind_ok] at run
    have start : Encoded s (inputCode s 0) s.mem := inputCode_zero s ▸ Encoded.start hwf
    have grown : v.wr.wbytes ≤ u.wr.wbytes := wClose_wbytes_le run
    obtain ⟨⟨m, rfl, henc⟩, codes⟩ := start.of_encodeLoop_ok (Nat.zero_add _) loop (apart_mono hapart (le_refl _) grown)
    by_cases hfits : FitsMem s s.outAddr.toNat (((inputCode s s.inCount).length + 7) / 8)
    · obtain ⟨M, close, hwfM, hart, -⟩ := henc.wClose_ok (op := 0x4) hfits
      rw [close] at run
      cases run
      exact ⟨M, rfl, hwfM, hart, hfits, fun i => codes i (Nat.zero_le i)⟩
    · obtain ⟨w, jam, -⟩ := henc.wClose_jams (op := 0x4) hfits
      rw [jam] at run
      cases run

/-! ### The artifact's bits -/

theorem artifactBits_of_holds {m : Memory} {base : Nat} {x : List Bool} (h : HoldsArtifact m base x) :
    artifactBits m base x.length = x := by
  refine List.ext_getElem (by rw [artifactBits, List.length_map, List.length_range]) fun j hj hx => ?_
  rw [artifactBits, List.length_map, List.length_range] at hj
  have bit := h (j / 8) (by omega) (j % 8) (Nat.mod_lt j (by decide))
  rw [Nat.div_add_mod, List.getD_eq_getElem x false hx] at bit
  simp only [artifactBits, List.getElem_map, List.getElem_range, bit]

/-- The artifact of an input whose symbols all have codes spells the input. -/
theorem decodedSyms_inputCode {s : State} (hshape : TreeShape s.cfg s.tree) (htree : s.tree.kind ≠ .empty)
    (htable : s.ct = buildTable s.tree) {n : Nat} (hcodes : ∀ i < n, s.codeAt (s.inSym i) ≠ []) :
    decodedSyms s.tree (inputCode s n) = (List.range n).map s.inSym := by
  have flat : inputCode s n = ((List.range n).map s.inSym).flatMap (Sparse.get [] (buildTable s.tree)) := by
    rw [inputCode, List.flatMap_map, ← htable]
    rfl
  have coded : ∀ x ∈ (List.range n).map s.inSym, Sparse.get [] (buildTable s.tree) x ≠ [] := by
    intro x hx
    obtain ⟨i, hi, rfl⟩ := List.mem_map.1 hx
    rw [← htable]
    exact hcodes i (List.mem_range.1 hi)
  rw [flat]
  generalize (List.range n).map s.inSym = xs at coded
  cases hkind : s.tree.kind with
  | empty => exact absurd hkind htree
  | normal =>
    obtain ⟨S, hS⟩ := exists_codeTree hshape hkind
    have spelt := hS.decodeBits_codes ((root_leaf hshape).1 hkind) coded []
    rw [List.append_nil, decodeBits, List.append_nil] at spelt
    rw [decodedSyms_of_normal hkind, spelt]
  | degen =>
    have only : ∀ x ∈ xs, x = (nodeAt s.tree.node s.tree.root).sym := fun x hx => by
      have hne := coded x hx
      rw [buildTable_of_degen hkind, get_setCode_nil] at hne
      exact of_not_not fun h => hne (if_neg h)
    have len : (xs.flatMap (Sparse.get [] (buildTable s.tree))).length = xs.length := by
      have one : xs.map (fun x => (Sparse.get [] (buildTable s.tree) x).length) = xs.map fun _ => 1 :=
        List.map_congr_left fun x hx => by rw [buildTable_of_degen hkind, get_setCode_nil, if_pos (only x hx)]; rfl
      rw [List.length_flatMap, one, List.map_const', List.sum_replicate_nat, Nat.mul_one]
    rw [decodedSyms_of_degen hkind, len]
    exact (List.eq_replicate_of_mem only).symm

/-! ### The round trip -/

theorem memSize_le (c : Config) : c.memSize ≤ 2 ^ 32 := Nat.succ_le_of_lt c.memTop.isLt

/-- DECOMPRESS of the artifact of a COMPRESS without an error, the code table being the tree's. -/
theorem decompress_of_compress {s t : State} {d : Word} (h : exec .compress s = .next t) (hwf : Memory.wf s.mem)
    (hshape : TreeShape s.cfg s.tree) (htable : s.ct = buildTable s.tree) (hclosed : s.rd.ropen = false)
    (herr : t.err = false) (hin : Apart s.inAddr.toNat (s.inCount * s.cfg.sb) s.outAddr.toNat t.wr.wbytes)
    (hout : Apart d.toNat (s.inCount * s.cfg.sb) s.outAddr.toNat t.wr.wbytes)
    (hdst : FitsMem s d.toNat (s.inCount * s.cfg.sb)) :
    ∃ u, exec .decompress
        { t with srcAddr := s.outAddr, srcBits := BitVec.ofNat 64 t.wr.wbits, dstAddr := d } = .next u ∧
      u.err = false ∧ u.dstValid = true ∧ u.dstLen = s.inCount ∧
      ∀ i < s.inCount, u.mem.readLE (d.toNat + i * s.cfg.sb) s.cfg.sb = s.inSym i := by
  obtain ⟨M, rfl, hwfM, hart, hfits, hcodes⟩ := compress_of_no_error hwf h herr hin
  have hmem := memSize_le s.cfg
  have hlen : (BitVec.ofNat 64 (inputCode s s.inCount).length).toNat = (inputCode s s.inCount).length := by
    rw [FitsMem] at hfits
    rw [BitVec.toNat_ofNat, Nat.mod_eq_of_lt (by omega)]
  by_cases htree : s.tree.kind = .empty
  · have hnone : s.inCount = 0 := by
      by_contra hne
      have hcode := hcodes 0 (Nat.pos_of_ne_zero hne)
      rw [State.codeAt, htable, buildTable_of_empty htree] at hcode
      exact hcode rfl
    rw [hnone]
    exact ⟨_, decompressOfTheEmptyTree _ hclosed htree, herr, rfl, rfl, fun i hi => absurd hi (Nat.not_lt_zero i)⟩
  · have spelt := decodedSyms_inputCode hshape htree htable hcodes
    have count : ((List.range s.inCount).map s.inSym).length = s.inCount := by rw [List.length_map, List.length_range]
    obtain ⟨N, run, hN⟩ := exec_decompress_spelled
      (s := { endedOk { s with
        mem := M
        wr := { wopen := false, wbase := s.outAddr, wacc := 0, wcnt := 0, wbits := (inputCode s s.inCount).length,
                wbytes := ((inputCode s s.inCount).length + 7) / 8, outValid := true } } with
        srcAddr := s.outAddr, srcBits := BitVec.ofNat 64 (inputCode s s.inCount).length, dstAddr := d })
      (out := (List.range s.inCount).map s.inSym) hwfM hshape htree hclosed
      (by rw [hlen, artifactBits_of_holds hart]; exact spelt.symm) (by rw [hlen]; exact hfits)
      (by rw [count]; exact hdst)
      (by rw [hlen, count]; exact hout.symm)
    refine ⟨_, run, herr, rfl, count, fun i hi => ?_⟩
    have held := hN.holds i (by rw [count]; exact hi)
    rw [List.getD_eq_getElem _ _ (by rw [count]; exact hi), List.getElem_map, List.getElem_range] at held
    exact held

/-- Settles O49: the first three commands make a tree and its table; COMPRESS and DECOMPRESS are then inverse. -/
theorem compressThenDecompressGivesTheInput : Obligations.CompressThenDecompressGivesTheInput := by
  intro s s1 s2 s3 s4 d hwf hnodes herr hclosed h1 herr1 h2 h3 h4 herr4 hin hout hdst
  have own := ownState_body .analyze s
  obtain ⟨u, run, rfl⟩ := exec_ok h1 herr1
  rw [run] at own
  obtain ⟨H, frame⟩ := own
  have frame : u = { s with hist := H } := frame
  subst frame
  obtain ⟨-, hshape⟩ := treeShape_buildTree (s := complete { s with hist := H }) hnodes
  cases h2
  cases h3
  have trip := decompress_of_compress h4 hwf hshape rfl hclosed herr4 hin hout hdst
  exact trip

end Sys2Proof.Machine
end

section
/-! Two runs of a command in lockstep, on data memories that agree on a set of bytes (20_memory.md R111, R120): as
long as the bytes read are in the set, the runs differ in nothing but the memory, and keep agreeing. -/

namespace Sys2Proof.Machine

/-- `s'` is `s` with a data memory that agrees with its own on the bytes of `F`. -/
inductive Twin (F : Nat → Prop) (s : State) : State → Prop
  | mk (M : Memory) (hwf : Memory.wf s.mem) (hwf' : Memory.wf M) (hagree : ∀ a, F a → M.read a = s.mem.read a) :
      Twin F s { s with mem := M }

/-- Two runs that end alike, in twin states. -/
inductive Run.Twins (F : Nat → Prop) {α : Type} : Run α → Run α → Prop
  | ok {a : α} {s s' : State} (h : Twin F s s') : Run.Twins F (.ok a s) (.ok a s')
  | raised {e : Err} {s s' : State} (h : Twin F s s') : Run.Twins F (.raised e s) (.raised e s')

section
variable {F : Nat → Prop} {s s' : State} {α β : Type}

namespace Twin

/-- An update of the registers. -/
theorem map {g : State → State} (hg : ∀ (s : State) (M : Memory), g { s with mem := M } = { g s with mem := M })
    (hmem : ∀ s, (g s).mem = s.mem) (h : Twin F s s') : Twin F (g s) (g s') := by
  obtain ⟨M, hwf, hwf', hagree⟩ := h
  have same := hg s M
  rw [same]
  exact ⟨M, (hmem s).symm ▸ hwf, hwf', fun a ha => by rw [hmem]; exact hagree a ha⟩

theorem write (h : Twin F s s') (a : Nat) (v : Byte) :
    Twin F { s with mem := s.mem.write a v } { s' with mem := s'.mem.write a v } := by
  obtain ⟨M, hwf, hwf', hagree⟩ := h
  refine ⟨M.write a v, Memory.wf_write _ _ _ hwf, Memory.wf_write _ _ _ hwf', fun x hx => ?_⟩
  by_cases hxa : x = a
  · rw [hxa, Memory.read_write_same M hwf', Memory.read_write_same s.mem hwf]
  · rw [Memory.read_write_other M a x v hxa, Memory.read_write_other s.mem a x v hxa, hagree x hx]

theorem writeLE (h : Twin F s s') (a n v : Nat) :
    Twin F { s with mem := s.mem.writeLE a n v } { s' with mem := s'.mem.writeLE a n v } := by
  induction n generalizing s s' a v with
  | zero => exact h
  | succ n ih => exact ih (h.write a (BitVec.ofNat 8 v)) (a + 1) (v / 256)

end Twin

namespace Run.Twins

variable {r r' : Run α}

/-- Twin runs go on as twins; `P` is what else is known of the state they go on in. -/
theorem bind {f : α → State → Run β} {P : α → State → Prop} {Q : Err → State → Prop} (h : r.Twins F r')
    (hP : r.Ends P Q)
    (hf : ∀ a s s', P a s → Twin F s s' → (f a s).Twins F (f a s')) : (r.bind f).Twins F (r'.bind f) := by
  cases h with
  | ok h => exact hf _ _ _ hP h
  | raised h => exact .raised h

theorem onRaise {g : State → State} (h : r.Twins F r') (hg : ∀ s s', Twin F s s' → Twin F (g s) (g s')) :
    (r.onRaise g).Twins F (r'.onRaise g) := by
  cases h with
  | ok h => exact .ok h
  | raised h => exact .raised (hg _ _ h)

end Run.Twins

theorem Run.ends_true (r : Run α) : r.Ends (fun _ _ => True) (fun _ _ => True) := by cases r <;> trivial

/-! ### The primitives -/

section
variable (op : Nat)

/-- MemRead reads the same value from both memories, or fails in both. -/
theorem memRead_twin_cases (h : Twin F s s') {a n : Nat} (hF : a + n ≤ s.cfg.memSize → ∀ x, a ≤ x → x < a + n → F x) :
    (∃ v, memRead op a n s = .ok v s ∧ memRead op a n s' = .ok v s') ∨
    ∃ e, memRead op a n s = .raised e s ∧ memRead op a n s' = .raised e s' := by
  obtain ⟨M, hwf, hwf', hagree⟩ := h
  by_cases hin : inRange s a n = true
  · have same : M.readLE a n = s.mem.readLE a n :=
      Memory.readLE_congr _ _ a n fun x hlo hhi => hagree x (hF (of_decide_eq_true hin) x hlo hhi)
    exact .inl ⟨s.mem.readLE a n, if_pos hin, (if_pos hin).trans (congrArg (Run.ok · _) same)⟩
  · exact .inr ⟨_, if_neg hin, if_neg hin⟩

theorem writeBit_twins (b : Bool) (h : Twin F s s') : (writeBit op b s).Twins F (writeBit op b s') := by
  obtain ⟨M, hwf, hwf', hagree⟩ := h
  have twin : Twin F s { s with mem := M } := ⟨M, hwf, hwf', hagree⟩
  rcases writeBit_cases op b s with ⟨hne, run⟩ | ⟨hfull, hfits, run⟩ | ⟨hfull, hbeyond, run⟩
  · rw [run, writeBit_of_byte_not_full (s := { s with mem := M }) op b hne]
    exact .ok (twin.map (g := fun s => { s with wr := shiftIn b s.wr }) (fun _ _ => rfl) fun _ => rfl)
  · rw [run, writeBit_of_byte_full (s := { s with mem := M }) op b hfull hfits]
    exact .ok ((twin.write s.wbyteAddr (shiftIn b s.wr).wacc).map
      (g := fun s => byteOut { s with wr := shiftIn b s.wr })
      (fun _ _ => rfl) fun _ => rfl)
  · rw [run, writeBit_of_byte_full_beyond (s := { s with mem := M }) op b hfull hbeyond]
    exact .raised (twin.map (g := fun s => releaseWriter { s with wr := shiftIn b s.wr }) (fun _ _ => rfl) fun _ => rfl)

theorem wClose_twins (h : Twin F s s') : (wClose op s).Twins F (wClose op s') := by
  obtain ⟨M, hwf, hwf', hagree⟩ := h
  have twin : Twin F s { s with mem := M } := ⟨M, hwf, hwf', hagree⟩
  rcases wClose_cases op s with ⟨hnone, run⟩ | ⟨hpos, hfits, run⟩ | ⟨hpos, hbeyond, run⟩
  · rw [run, wClose_of_nothing_pending (s := { s with mem := M }) op hnone]
    exact .ok (twin.map (fun _ _ => rfl) fun _ => rfl)
  · rw [run, wClose_of_pending (s := { s with mem := M }) op hpos hfits]
    exact .ok ((twin.write s.wbyteAddr (paddedByte s.wr)).map (g := fun s => closeWriter (byteOut s)) (fun _ _ => rfl)
      fun _ => rfl)
  · rw [run, wClose_of_pending_beyond (s := { s with mem := M }) op hpos hbeyond]
    exact .raised (twin.map (fun _ _ => rfl) fun _ => rfl)

theorem wCloseOnError_twin (h : Twin F s s') : Twin F (wCloseOnError s) (wCloseOnError s') := by
  obtain ⟨M, hwf, hwf', hagree⟩ := h
  have twin : Twin F s { s with mem := M } := ⟨M, hwf, hwf', hagree⟩
  by_cases hflush : s.wr.wcnt > 0 ∧ inRange s s.wbyteAddr 1 = true
  · have flushed (u : State) (hu : u.wr.wcnt > 0 ∧ inRange u u.wbyteAddr 1 = true) :
        wCloseOnError u = { byteOut { u with mem := u.mem.write u.wbyteAddr (paddedByte u.wr) } with
          wr := { (byteOut u).wr with wopen := false } } := by
      rw [wCloseOnError, if_pos hu]
      rfl
    rw [flushed s hflush, flushed { s with mem := M } hflush]
    exact (twin.write s.wbyteAddr (paddedByte s.wr)).map
      (g := fun s => { s with wr := { (byteOut s).wr with wopen := false } })
      (fun _ _ => rfl) fun _ => rfl
  · have kept (u : State) (hu : ¬ (u.wr.wcnt > 0 ∧ inRange u u.wbyteAddr 1 = true)) :
        wCloseOnError u = { u with wr := { u.wr with wopen := false } } := by
      rw [wCloseOnError, if_neg hu]
    rw [kept s hflush, kept { s with mem := M } hflush]
    exact twin.map (g := fun s => { s with wr := { s.wr with wopen := false } }) (fun _ _ => rfl) fun _ => rfl

theorem emit_twins (x : Nat) (h : Twin F s s') : (emit op x s).Twins F (emit op x s') := by
  obtain ⟨M, hwf, hwf', hagree⟩ := h
  have twin : Twin F s { s with mem := M } := ⟨M, hwf, hwf', hagree⟩
  rcases emit_cases op x s with ⟨hfits, run⟩ | ⟨hbeyond, run⟩
  · rcases emit_cases op x { s with mem := M } with ⟨-, run'⟩ | ⟨hbeyond, -⟩
    · rw [run, run']
      exact .ok ((twin.writeLE (s.outSymAddr s.dstLen) s.cfg.sb x).map (g := fun s => { s with dstLen := s.dstLen + 1 })
        (fun _ _ => rfl) fun _ => rfl)
    · exact absurd hfits (Nat.not_le.2 hbeyond)
  · rcases emit_cases op x { s with mem := M } with ⟨hfits, -⟩ | ⟨-, run'⟩
    · exact absurd hfits (Nat.not_le.2 hbeyond)
    · rw [run, run']
      exact .raised (twin.map (fun _ _ => rfl) fun _ => rfl)

/-- ReadBit reads a byte at the boundaries only. -/
theorem readBit_twins (h : Twin F s s')
    (hF : s.rd.rpos % 8 = 0 → s.rbyteAddr + 1 ≤ s.cfg.memSize → F s.rbyteAddr) :
    (readBit op s).Twins F (readBit op s') := by
  obtain ⟨M, hwf, hwf', hagree⟩ := h
  have twin : Twin F s { s with mem := M } := ⟨M, hwf, hwf', hagree⟩
  rcases readBit_cases op s with ⟨hne, run⟩ | ⟨hzero, hfits, run⟩ | ⟨hzero, hbeyond, run⟩
  · rw [run, readBit_of_inside_byte (s := { s with mem := M }) op hne]
    exact .ok (twin.map (g := fun s => { s with rd := { s.rd with rpos := s.rd.rpos + 1 } }) (fun _ _ => rfl)
      fun _ => rfl)
  · have same : M.read s.rbyteAddr = s.mem.read s.rbyteAddr := hagree _ (hF hzero hfits)
    rw [run, readBit_of_boundary (s := { s with mem := M }) op hzero hfits, ← same]
    exact .ok (twin.map
      (g := fun u => { u with rd := { u.rd with rbyte := M.read s.rbyteAddr, rpos := u.rd.rpos + 1 } })
      (fun _ _ => rfl) fun _ => rfl)
  · rw [run, readBit_of_boundary_beyond (s := { s with mem := M }) op hzero hbeyond]
    exact .raised (twin.map (fun _ _ => rfl) fun _ => rfl)

theorem writeBits_twins (bs : List Bool) (h : Twin F s s') : (writeBits op bs s).Twins F (writeBits op bs s') := by
  induction bs generalizing s s' with
  | nil => exact .ok h
  | cons b bs ih =>
    rw [writeBits_cons, writeBits_cons]
    exact (writeBit_twins op b h).bind (Run.ends_true _) fun _ _ _ _ hu => ih hu

theorem encodeSym_twins (a x : Nat) (h : Twin F s s') : (encodeSym op a x s).Twins F (encodeSym op a x s') := by
  have same : s'.codeAt x = s.codeAt x := by cases h; rfl
  rw [encodeSym, encodeSym, same]
  split
  · exact .raised (wCloseOnError_twin h)
  · exact writeBits_twins op _ h

/-- Input symbol `i`, its bytes being in the set if they exist. -/
theorem readInSym_twin_cases (h : Twin F s s') (i : Nat)
    (hF : s.inSymAddr i + s.cfg.sb ≤ s.cfg.memSize → ∀ a, s.inSymAddr i ≤ a → a < s.inSymAddr (i + 1) → F a) :
    (∃ x, readInSym op i s = .ok x s ∧ readInSym op i s' = .ok x s') ∨
    ∃ e, readInSym op i s = .raised e s ∧ readInSym op i s' = .raised e s' := by
  have same : s'.inSymAddr i = s.inSymAddr i ∧ s'.cfg = s.cfg := by cases h; exact ⟨rfl, rfl⟩
  rw [readInSym, readInSym, same.1, same.2]
  refine memRead_twin_cases op h fun hin a hlo hhi => hF hin a hlo ?_
  rw [State.inSymAddr, Nat.succ_mul, ← Nat.add_assoc]
  exact hhi

end

/-! ### The loops -/

theorem Run.ends_self (r : Run α) : r.Ends (fun a t => r = .ok a t) (fun _ _ => True) := by
  cases r with
  | ok a t => rfl
  | raised e t => trivial

theorem inSymAddr_mono (s : State) {i j : Nat} (h : i ≤ j) : s.inSymAddr i ≤ s.inSymAddr j :=
  Nat.add_le_add_left (Nat.mul_le_mul_right _ h) _

theorem symbolsRead_of_ok {op i : Nat} {x : Nat} {t : State} (read : readInSym op i s = .ok x s) (n : Nat)
    (coded : encodeSym op (s.inSymAddr i) x s = .ok () t) :
    symbolsRead op (n + 1) i s = symbolsRead op n (i + 1) t + 1 := by
  simp only [symbolsRead, read, coded]

theorem symbolsRead_pos {op i : Nat} {x : Nat} (read : readInSym op i s = .ok x s) (n : Nat) :
    0 < symbolsRead op (n + 1) i s := by
  simp only [symbolsRead, read]
  split
  · exact Nat.succ_pos _
  · exact Nat.one_pos

section
variable (op : Nat)

/-- The encoder reads the symbols that `symbolsRead` counts. -/
theorem encodeLoop_twins (n i : Nat) (h : Twin F s s')
    (hF : ∀ a, s.inSymAddr i ≤ a → a < s.inSymAddr (i + symbolsRead op n i s) → F a) :
    (encodeLoop op n i s).Twins F (encodeLoop op n i s') := by
  induction n generalizing i s s' with
  | zero => exact .ok h
  | succ n ih =>
    have first : s.inSymAddr i + s.cfg.sb ≤ s.cfg.memSize → ∀ a, s.inSymAddr i ≤ a → a < s.inSymAddr (i + 1) → F a := by
      intro hfits a hlo hhi
      have run := readInSym_of_inRange op (decide_eq_true hfits)
      exact hF a hlo (hhi.trans_le (inSymAddr_mono s (Nat.add_le_add_left (symbolsRead_pos run n) i)))
    rw [encodeLoop_succ, encodeLoop_succ]
    rcases readInSym_twin_cases op h i first with ⟨x, run, run'⟩ | ⟨e, run, run'⟩
    · have same : s'.inSymAddr i = s.inSymAddr i := by cases h; rfl
      simp only [run, run', Run.onRaise_ok, Run.bind_ok, same]
      refine (encodeSym_twins op _ _ h).bind (Run.ends_self _) fun _ t t' coded ht => ih (i + 1) ht fun a hlo hhi => ?_
      have frame := encodeSym_frame op (s.inSymAddr i) x s
      rw [coded] at frame
      have addr (j : Nat) : t.inSymAddr j = s.inSymAddr j := by
        have frame : t = { s with wr := t.wr, mem := t.mem } := frame
        rw [frame]
        rfl
      rw [addr] at hlo hhi
      rw [symbolsRead_of_ok run n coded] at hF
      refine hF a ((inSymAddr_mono s i.le_succ).trans hlo) (hhi.trans_le (inSymAddr_mono s ?_))
      omega
    · simp only [run, run', Run.onRaise_raised, Run.bind_raised]
      exact .raised (wCloseOnError_twin h)

theorem countLoop_twins (n i : Nat) (h : Twin F s s')
    (hF : ∀ a, s.inSymAddr i ≤ a → a < s.inSymAddr (i + n) → F a) :
    (countLoop op n i s).Twins F (countLoop op n i s') := by
  induction n generalizing i s s' with
  | zero => exact .ok h
  | succ n ih =>
    have reach := inSymAddr_mono s (by omega : i + 1 ≤ i + (n + 1))
    rw [countLoop_succ, countLoop_succ]
    rcases readInSym_twin_cases op h i fun _ a hlo hhi => hF a hlo (hhi.trans_le reach) with
      ⟨x, run, run'⟩ | ⟨e, run, run'⟩
    · rw [run, run', Run.bind_ok, Run.bind_ok]
      refine ih (i + 1) (h.map (g := countSym x) (fun _ _ => rfl) fun _ => rfl) fun a hlo hhi => ?_
      exact hF a ((inSymAddr_mono s i.le_succ).trans hlo) (hhi.trans_le (inSymAddr_mono s (by omega)))
    · rw [run, run']
      exact .raised h

theorem emitIfLeaf_twins (pos : Nat) (h : Twin F s s') : (emitIfLeaf op pos s).Twins F (emitIfLeaf op pos s') := by
  have same : s'.nodeAt pos = s.nodeAt pos := by cases h; rfl
  rw [emitIfLeaf_eq, emitIfLeaf_eq, same]
  split
  · refine (emit_twins op _ h).bind (Run.ends_true _) fun _ t t' _ ht => ?_
    have root : t'.tree.root = t.tree.root := by cases ht; rfl
    rw [root]
    exact .ok ht
  · exact .ok h

theorem finalEmit_twins (pos : Nat) (h : Twin F s s') : (finalEmit op pos s).Twins F (finalEmit op pos s') := by
  have same : s'.nodeAt pos = s.nodeAt pos ∧ s'.tree = s.tree := by cases h; exact ⟨rfl, rfl⟩
  rw [finalEmit, finalEmit, same.1, same.2]
  split
  · exact emit_twins op _ h
  · exact .ok h

theorem emitIfLeaf_ends_reader (pos : Nat) (s : State) :
    (emitIfLeaf op pos s).Ends (fun _ t => t.rd = s.rd) (fun _ _ => True) := by
  rw [emitIfLeaf_eq]
  split
  · rcases emit_cases op (s.nodeAt pos).sym s with ⟨-, run⟩ | ⟨-, run⟩ <;> rw [run]
    · rfl
    · trivial
  · rfl

theorem readBit_ends_reader (s : State) :
    (readBit op s).Ends (fun _ t => t.rd.rbase = s.rd.rbase ∧ t.rd.rlen = s.rd.rlen) (fun _ _ => True) := by
  rcases readBit_cases op s with ⟨-, run⟩ | ⟨-, -, run⟩ | ⟨-, -, run⟩ <;> rw [run]
  · exact ⟨rfl, rfl⟩
  · exact ⟨rfl, rfl⟩
  · trivial

/-- The decoder reads bytes of its artifact. -/
theorem decodeLoop_twins (n pos : Nat) (h : Twin F s s')
    (hF : ∀ a, s.rd.rbase.toNat ≤ a → a < s.rd.rbase.toNat + (s.rd.rlen + 7) / 8 → F a) :
    (decodeLoop op n pos s).Twins F (decodeLoop op n pos s') := by
  induction n generalizing pos s s' with
  | zero => exact .ok h
  | succ n ih =>
    have same : s'.hasMore = s.hasMore := by cases h; rfl
    rw [decodeLoop_succ, decodeLoop_succ, same]
    split
    · next hmore =>
      obtain ⟨-, hlt⟩ := (hasMore_iff s).1 hmore
      refine (emitIfLeaf_twins op pos h).bind (emitIfLeaf_ends_reader op pos s) fun p t t' hrd ht => ?_
      have byte : F t.rbyteAddr := by
        rw [State.rbyteAddr, hrd]
        exact hF _ (Nat.le_add_right _ _) (by omega)
      refine (readBit_twins op ht fun _ _ => byte).bind (readBit_ends_reader op t) fun b u u' ⟨hbase, hlen⟩ hu => ?_
      have walk : walkBit b p u' = walkBit b p u := by cases hu; rfl
      rw [walk]
      exact ih _ hu (by rw [hbase, hlen, hrd]; exact hF)
    · exact .ok h

theorem decodeBody_twins (h : Twin F s s')
    (hF : ∀ a, s.srcAddr.toNat ≤ a → a < s.srcAddr.toNat + (s.srcBits.toNat + 7) / 8 → F a) :
    (decodeBody op s).Twins F (decodeBody op s') := by
  have same : s'.srcAddr = s.srcAddr ∧ s'.srcBits = s.srcBits ∧ s'.tree = s.tree := by cases h; exact ⟨rfl, rfl, rfl⟩
  obtain ⟨haddr, hbits, htree⟩ := same
  rw [decodeBody_eq, decodeBody_eq, haddr, hbits, htree]
  have start := h.map (g := rOpen s.srcAddr s.srcBits.toNat) (fun _ _ => rfl) fun _ => rfl
  refine (decodeLoop_twins op _ _ start hF).bind (Run.ends_true _) fun pos t t' _ ht => ?_
  refine (finalEmit_twins op pos ht).bind (Run.ends_true _) fun _ u u' _ hu => ?_
  exact .ok (hu.map (fun _ _ => rfl) fun _ => rfl)

theorem compressBody_twins (h : Twin F s s')
    (hF : ∀ a, s.inSymAddr 0 ≤ a → a < s.inSymAddr (symbolsRead op s.inCount 0 (wOpen s.outAddr s)) → F a) :
    (compressBody op s).Twins F (compressBody op s') := by
  have same : s'.inCount = s.inCount ∧ s'.outAddr = s.outAddr := by cases h; exact ⟨rfl, rfl⟩
  rw [compressBody_eq, compressBody_eq, same.1, same.2]
  have start := h.map (g := wOpen s.outAddr) (fun _ _ => rfl) fun _ => rfl
  refine (encodeLoop_twins op _ _ start ?_).bind (Run.ends_true _) fun _ t t' _ ht => wClose_twins op ht
  rw [Nat.zero_add]
  exact hF

end

/-! ### The commands -/

theorem seedLeaves_with_mem (s : State) (M : Memory) (syms : List Nat) (k : Nat) (m : Sparse Node) :
    seedLeaves { s with mem := M } syms k m = seedLeaves s syms k m := by
  induction syms generalizing k m with
  | nil => rfl
  | cons x xs ih => exact ih (k + 1) _

theorem buildTree_with_mem (s : State) (M : Memory) : buildTree { s with mem := M } = buildTree s := by
  have same : presentSyms { s with mem := M } = presentSyms s := rfl
  simp only [buildTree, same, seedLeaves_with_mem]

theorem inSymAddr_zero (s : State) : s.inSymAddr 0 = s.inAddr.toNat := by
  rw [State.inSymAddr, Nat.zero_mul, Nat.add_zero]

/-- The body of a command on twin states, `F` containing the bytes of its footprint. -/
theorem body_twins (i : Instr) (h : Twin F s s')
    (hF : ∀ p ∈ footprint i s, ∀ a, p.base ≤ a → a < p.base + p.len → F a) : (body i s).Twins F (body i s') := by
  have same : s'.wr = s.wr ∧ s'.rd = s.rd ∧ s'.tree = s.tree ∧ s'.inCount = s.inCount ∧ s'.outAddr = s.outAddr ∧
      s'.srcAddr = s.srcAddr ∧ s'.srcBits = s.srcBits := by cases h; exact ⟨rfl, rfl, rfl, rfl, rfl, rfl, rfl⟩
  obtain ⟨hwr, hrd, htree, hcount, hout, hsrc, hbits⟩ := same
  cases i with
  | nop => exact .ok h
  | clear => exact .ok (h.map (fun _ _ => rfl) fun _ => rfl)
  | buildtree => exact .ok (h.map (g := fun s => { s with tree := buildTree s })
      (fun s M => by rw [buildTree_with_mem]) fun _ => rfl)
  | buildtable => exact .ok (h.map (g := fun s => { s with ct := buildTable s.tree }) (fun _ _ => rfl) fun _ => rfl)
  | analyze =>
    simp only [body, hcount]
    have start := h.map (g := fun s => { s with hist := [] }) (fun _ _ => rfl) fun _ => rfl
    refine countLoop_twins 0x1 _ 0 start fun a hlo hhi => ?_
    have hlo : s.inSymAddr 0 ≤ a := hlo
    have hhi : a < s.inSymAddr (0 + s.inCount) := hhi
    rw [inSymAddr_zero] at hlo
    rw [Nat.zero_add] at hhi
    exact hF _ List.mem_cons_self a hlo hhi
  | compress =>
    simp only [body, hwr]
    split
    · exact .raised h
    · next hclosed =>
      rw [footprint, if_neg hclosed] at hF
      refine compressBody_twins 0x4 h fun a hlo hhi => hF _ List.mem_cons_self a ?_ hhi
      rwa [inSymAddr_zero] at hlo
  | decompress =>
    simp only [body, hrd]
    split
    · exact .raised h
    · next hclosed =>
      by_cases hempty : s.tree.kind = .empty
      · rw [decompressBody_of_empty 0x5 hempty, decompressBody_of_empty 0x5 (htree ▸ hempty)]
        exact .ok (h.map (g := fun s => { s with dstLen := 0, dstValid := true }) (fun _ _ => rfl) fun _ => rfl)
      · rw [decompressBody_of_tree 0x5 s hempty, decompressBody_of_tree 0x5 s' (htree ▸ hempty)]
        rw [footprint, if_neg (not_or.2 ⟨hclosed, hempty⟩)] at hF
        exact decodeBody_twins 0x5
          (h.map (g := fun s => { s with dstValid := false, dstLen := 0 }) (fun _ _ => rfl) fun _ => rfl)
          (hF _ List.mem_cons_self)
  | wopen =>
    simp only [body, hwr, hout]
    split
    · exact .raised h
    · exact .ok (h.map (g := wOpen s.outAddr) (fun _ _ => rfl) fun _ => rfl)
  | wbit b =>
    simp only [body, hwr]
    split
    · exact writeBit_twins 0x8 b h
    · exact .raised h
  | wclose =>
    simp only [body, hwr]
    split
    · exact wClose_twins 0x9 h
    · exact .raised h
  | ropen =>
    simp only [body, hrd, hsrc, hbits]
    split
    · exact .raised h
    · exact .ok (h.map (g := rOpen s.srcAddr s.srcBits.toNat) (fun _ _ => rfl) fun _ => rfl)
  | rclose =>
    simp only [body, hrd]
    split
    · exact .ok (h.map (fun _ _ => rfl) fun _ => rfl)
    · exact .raised h
  | rbit =>
    simp only [body, hrd]
    split
    · next hopen =>
      split
      · exact .raised h
      · next hmore =>
        rw [deliverBit_eq, deliverBit_eq]
        refine (readBit_twins 0xB h fun hzero _ => ?_).bind (Run.ends_true _) fun b t t' _ ht =>
          .ok (ht.map (g := fun t => { t with rd := { t.rd with rdata := b } }) (fun _ _ => rfl) fun _ => rfl)
        rw [footprint, if_pos ⟨(hasMore_iff s).2 ⟨hopen, Nat.lt_of_not_le hmore⟩, hzero⟩] at hF
        exact hF _ List.mem_cons_self _ (le_refl _) (Nat.lt_succ_self _)
    · exact .raised h

end

/-- Settles O53: the two runs are twins on the bytes of the footprint, and end as such. -/
theorem commandsDependOnlyOnTheirFootprint : Obligations.CommandsDependOnlyOnTheirFootprint := by
  intro i s M hwf hwf' hagree
  have start : Twin (fun a => ∃ p ∈ footprint i s, p.base ≤ a ∧ a < p.base + p.len) s { s with mem := M } :=
    ⟨M, hwf, hwf', fun a ⟨p, hp, hlo, hhi⟩ => hagree p hp a hlo hhi⟩
  have twins := body_twins i start fun p hp a hlo hhi => ⟨p, hp, hlo, hhi⟩
  rw [exec_eq_finish, exec_eq_finish]
  generalize body i s = r at twins
  generalize body i { s with mem := M } = r' at twins
  obtain ⟨⟨N, -, -, same⟩⟩ | ⟨⟨N, -, -, same⟩⟩ := twins
  · exact ⟨_, _, rfl, rfl, rfl, fun p hp a hlo hhi => same a ⟨p, hp, hlo, hhi⟩⟩
  · exact ⟨_, _, rfl, rfl, rfl, fun p hp a hlo hhi => same a ⟨p, hp, hlo, hhi⟩⟩

end Sys2Proof.Machine
end
